-- ==== Sys2Proof/Word.lean ====
section
/-! DEFINITION. The word types of the block (00_scope.md R11: every value is unsigned, `u32` and `u64` wrap). -/

namespace Sys2Proof

/-- `u32`: the contents of one register, an MMIO address, an MMIO data word (R9 `REG_W`, `ADDR_W`, `DATA_W`). -/
abbrev Word := BitVec 32

/-- `u64`: a command word (R42), the logical counter `CNT1 ++ CNT0` (R11), a shadow latch (R22). -/
abbrev DWord := BitVec 64

end Sys2Proof
end

