-- ==== Sys2Proof/Config.lean ====
section
/-! DEFINITION. What is fixed for one block: its named things (timers, registers, ports, faults), its parameters
(00_scope.md R9) and the values the spec leaves open, each an opaque constant that nothing in Lean can evaluate. -/

namespace Sys2Proof

/-! ## Named things -/

/-- The three timers: "a fixed, small set (three) of physically distinct timer instances" (R3, R44). -/
inductive TimerId where
  | t0 | t1 | t2
deriving DecidableEq, Repr, Inhabited

/-- The six registers of a timer (10_state.md R13). -/
inductive RegName where
  | ctrl0 | load0 | cnt0 | ctrl1 | load1 | cnt1
deriving DecidableEq, Repr, Inhabited

/-- One thing for each timer. -/
structure PerTimer (α : Type) where
  t0 : α
  t1 : α
  t2 : α
deriving DecidableEq, Repr, Inhabited

namespace PerTimer
variable {α β : Type}

/-- The entry of one timer. -/
def get (p : PerTimer α) : TimerId → α
  | .t0 => p.t0
  | .t1 => p.t1
  | .t2 => p.t2

/-- Replace the entry of one timer. -/
def set (p : PerTimer α) (t : TimerId) (a : α) : PerTimer α :=
  match t with
  | .t0 => { p with t0 := a }
  | .t1 => { p with t1 := a }
  | .t2 => { p with t2 := a }

/-- The same function at every timer. -/
def map (f : α → β) (p : PerTimer α) : PerTimer β := ⟨f p.t0, f p.t1, f p.t2⟩

end PerTimer

/-- The sizes an MMIO transaction can ask for (30_encoding.md R51): 1, 2 or 4 bytes. -/
inductive AccessSize where
  | byte | half | word
deriving DecidableEq, Repr, Inhabited

/-- The size in bytes. -/
def AccessSize.bytes : AccessSize → Nat
  | .byte => 1
  | .half => 2
  | .word => 4

/-- The block's two interfaces (R1, glossary "Command port / MMIO port"). -/
inductive Port where
  | command | mmio
deriving DecidableEq, Repr, Inhabited

/-- An MMIO transaction (R51): `we = 1` writes. -/
structure Transaction where
  we    : Bool
  size  : AccessSize
  addr  : Word
  wdata : Word
deriving DecidableEq, Repr, Inhabited

/-- What the HOST puts on a port: a command word (R42) or an MMIO transaction (R51). -/
inductive Request where
  | command (word : DWord)
  | mmio    (x : Transaction)
deriving DecidableEq, Repr, Inhabited

/-- The port a request arrives at. -/
def Request.port : Request → Port
  | .command _ => .command
  | .mmio _ => .mmio

/-- What a port answers: `(status, data)` on the command port (R49), `(err, rdata)` with the fault code that
`err` carries on the MMIO port (R51). -/
inductive Response where
  | command (status : BitVec 4) (data : DWord)
  | mmio    (err : Bool) (code : BitVec 4) (rdata : Word)
deriving DecidableEq, Repr, Inhabited

/-- The states of the snapshot FSM (10_state.md R23). -/
inductive SnapPhase where
  | idle | rdHi1 | rdLo | rdHi2 | cmp
deriving DecidableEq, Repr, Inhabited

/-- The three readings the snapshot FSM holds (R23). -/
inductive SnapReading where
  | hi1 | lo | hi2
deriving DecidableEq, Repr, Inhabited

/-- The block's faults with the info the fault mark records for each (60_exceptions.md R93).
A fault is a status in a response, it stops nothing (R92, R97). -/
inductive BlockFault where
  | configError     (word : DWord)
  | illegalCommand  (word : DWord)
  | illegalRegister (word : DWord)
  | busDecodeError  (addr : Word) (size : AccessSize)
  | cntWriteFault   (t : TimerId) (r : RegName)
  | retryLimit      (t : TimerId) (retries : Nat)
  | abortedByReset  (word : DWord)
deriving DecidableEq, Repr, Inhabited

/-- Who moves next: one of the four agents of 00_scope.md R7. -/
inductive Turn where
  | host | tick | snap | rst
deriving DecidableEq, Repr, Inhabited

/-! ## Parameters -/

/-- What a write to a counter register does (R9 `CNT_WRITE_POLICY`, R15). -/
inductive CntWritePolicy where
  | ignore | fault
deriving DecidableEq, Repr, Inhabited

/-- The byte order of a host's byte view of a register (R9 `BYTE_ORDER`, R33). -/
inductive ByteOrder where
  | little | big
deriving DecidableEq, Repr, Inhabited

/-- `OFF_CTRL0` to `OFF_CNT1`: the byte offsets of the six registers in a timer's window (R9, D2, G1). -/
structure RegOffsets where
  ctrl0 : Nat
  load0 : Nat
  cnt0  : Nat
  ctrl1 : Nat
  load1 : Nat
  cnt1  : Nat
deriving DecidableEq, Repr, Inhabited

/-- The offset of one register. -/
def RegOffsets.get (o : RegOffsets) : RegName → Nat
  | .ctrl0 => o.ctrl0
  | .load0 => o.load0
  | .cnt0 => o.cnt0
  | .ctrl1 => o.ctrl1
  | .load1 => o.load1
  | .cnt1 => o.cnt1

/-- `UDT_BIT`, `LOAD_BIT`, `ENT_BIT` and `CASC_BIT` (R9, R10, D3, G2). -/
structure BitPositions where
  udt  : Nat
  load : Nat
  ent  : Nat
  casc : Nat
deriving DecidableEq, Repr, Inhabited

/-- The parameters of 00_scope.md R9 but for the widths and the number of timers, which are the types' own. -/
structure Params where
  base           : PerTimer Word
  offsets        : RegOffsets
  bits           : BitPositions
  /-- `CLK_HZ` as the bits of a binary64 number, the type R89 gives a frequency. -/
  clkHz          : BitVec 64
  maxRetries     : Option Nat
  cntWritePolicy : CntWritePolicy
  byteOrder      : ByteOrder
deriving DecidableEq, Repr, Inhabited

/-- The windows of two timers do not meet (20_memory.md R29: a window is `[BASE[t], BASE[t] + 0x1F]`). -/
abbrev windowsApart (a b : Word) : Prop := a.toNat + 0x20 ≤ b.toNat ∨ b.toNat + 0x20 ≤ a.toNat

/-- The two conditions R29 puts on `BASE`: each a multiple of 0x20, the three windows disjoint. -/
abbrev legalBases (b : PerTimer Word) : Prop :=
  (b.t0.toNat % 0x20 = 0 ∧ b.t1.toNat % 0x20 = 0 ∧ b.t2.toNat % 0x20 = 0) ∧
  windowsApart b.t0 b.t1 ∧ windowsApart b.t0 b.t2 ∧ windowsApart b.t1 b.t2

/-- A layout of six registers: each at its own aligned place in the window of 0x20 bytes (R13, R29, R32; DEDUCED, log 5). -/
abbrev legalOffsets (o : RegOffsets) : Prop :=
  [o.ctrl0, o.load0, o.cnt0, o.ctrl1, o.load1, o.cnt1].Nodup ∧
  ∀ n ∈ [o.ctrl0, o.load0, o.cnt0, o.ctrl1, o.load1, o.cnt1], n < 0x20 ∧ n % 4 = 0

/-- "A model that takes the positions as parameters must check that the four are distinct and below 32" (R10). -/
abbrev legalBits (b : BitPositions) : Prop :=
  [b.udt, b.load, b.ent, b.casc].Nodup ∧ ∀ n ∈ [b.udt, b.load, b.ent, b.casc], n < 32

/-- The checks a model makes of its arguments (R10, R29). -/
abbrev Params.legal (p : Params) : Prop := legalBases p.base ∧ legalOffsets p.offsets ∧ legalBits p.bits

namespace Config

/-! ## Free values -/

/-- OPEN in R9: some board's `BASE[0..2]`, under no law (log 4). -/
opaque freeBases : PerTimer Word

/-- OPEN in R9: some board's `CLK_HZ` (log 4). -/
opaque freeClkHz : BitVec 64

/-- The next agent when the state names none: R8 lets any agent move (log 1). -/
opaque freeTurn : Nat → Turn

/-- Each register is a draw at power-up (70_reset_and_hazards.md R106, I15; log 9). The first argument numbers the draw. -/
opaque freeReg : Nat → TimerId → RegName → Word

/-- A shadow latch at power-up (R106, log 9). -/
opaque freeShadow : Nat → TimerId → DWord

/-- `snap.state` at power-up (R106, log 9). -/
opaque freePhase : Nat → SnapPhase

/-- `snap.tid` at power-up (R106, log 9): one of the three timers, as R27 types the field, and never the fourth value of the
2 bits R23 gives it (DESIGN CHOICE, unsafe, log 27). -/
opaque freeTid : Nat → TimerId

/-- `snap.hi1`, `snap.lo` and `snap.hi2` at power-up (R106, log 9). -/
opaque freeReading : Nat → SnapReading → Word

/-- `snap.retries` at power-up (R106, log 9). -/
opaque freeRetries : Nat → Nat

/-- The command word the FSM holds at power-up (R106, log 9). -/
opaque freeCmdWord : Nat → DWord

/-- The sign and the payload of the NaN a division gives, which IEEE 754 leaves to the implementation (R89, log 17). -/
opaque freeNan : DWord → BitVec 64 → BitVec 64

/-! ## The parameters of the reset state -/

/-- The example bases of 95_test_vectors.md section 1: "example values that meet rule R29, not a board's real map". -/
def exampleBases : PerTimer Word := ⟨0x0000_1000, 0x0000_2000, 0x0000_3000⟩

/-- Some legal `BASE`: the free one wherever it meets R29, so nothing but R29 is known of it (DESIGN CHOICE, log 4). -/
def bases : PerTimer Word := if legalBases freeBases then freeBases else exampleBases

/-- The offsets R9 decides (R13, log 5). -/
def offsets : RegOffsets := ⟨0x00, 0x04, 0x08, 0x10, 0x14, 0x18⟩

/-- The bit positions R9 decides (R16, log 5). -/
def bits : BitPositions := ⟨1, 5, 7, 11⟩

/-- The parameters a block starts with: `BASE` and `CLK_HZ` free, the others at the decided, reference and default values
of R9. -/
def params : Params where
  base := bases
  offsets := offsets
  bits := bits
  clkHz := freeClkHz
  maxRetries := none
  cntWritePolicy := .ignore
  byteOrder := .little

end Config
end Sys2Proof
end

