-- ==== Sys2Proof/Syntax.lean ====
section
/-! DEFINITION. The instructions of spec/opcode_table.json, one constructor a row. -/

namespace Sys2Proof

/-- The block's commands and transactions. A command carries the fields of its word (30_encoding.md R42), the ignored
ones too, so that no bit of a word is lost. `tid` may be 3 and `reg` 6 or 7 here, as the assembler of R52 can write
`t3`: WellFormed refuses them and a meaning raises the fault the spec gives. -/
inductive Instr where
  /-- RD32 (40_register_access.md R58): `data` is ignored. -/
  | rd32 (tid : BitVec 2) (reg : BitVec 3) (data : Word)
  /-- WR32 (R59): `data` is the value. -/
  | wr32 (tid : BitVec 2) (reg : BitVec 3) (data : Word)
  /-- SETB (41_control_encoder.md R63): `data` is the mask. -/
  | setb (tid : BitVec 2) (reg : BitVec 3) (data : Word)
  /-- CLRB (R64): `data` is the mask. -/
  | clrb (tid : BitVec 2) (reg : BitVec 3) (data : Word)
  /-- ZERO (R65): `data` is ignored. -/
  | zero (tid : BitVec 2) (reg : BitVec 3) (data : Word)
  /-- SNAP64 (42_counter_reader.md R72): `reg` and `data` are ignored. -/
  | snap64 (tid : BitVec 2) (reg : BitVec 3) (data : Word)
  /-- BUS_READ (R60): `wdata` is ignored. -/
  | busRead (size : AccessSize) (addr wdata : Word)
  /-- BUS_WRITE (R61). -/
  | busWrite (size : AccessSize) (addr wdata : Word)
deriving DecidableEq, Repr

end Sys2Proof
end

