-- ==== Sys2Proof/WellFormed.lean ====
section
/-! DEFINITION. Which instruction terms the encoding has a legal form for. -/

namespace Sys2Proof

/-- Value 3 of the timer field is no timer (30_encoding.md R44). -/
def wfTimer (tid : BitVec 2) : Bool := tid != 3

/-- Values 6 and 7 of the register field are no registers (R45). -/
def wfReg (reg : BitVec 3) : Bool := reg != 6 && reg != 7

/-- A well-formed instruction: its fields have none of the values R54 makes illegal. SNAP64 ignores `reg` (R43), and
every MMIO transaction has a form (R51), whatever the address decoder then says of it. -/
def Instr.wf : Instr → Bool
  | .rd32 tid reg _ => wfTimer tid && wfReg reg
  | .wr32 tid reg _ => wfTimer tid && wfReg reg
  | .setb tid reg _ => wfTimer tid && wfReg reg
  | .clrb tid reg _ => wfTimer tid && wfReg reg
  | .zero tid reg _ => wfTimer tid && wfReg reg
  | .snap64 tid _ _ => wfTimer tid
  | .busRead _ _ _ => true
  | .busWrite _ _ _ => true

end Sys2Proof
end

