-- ==== Sys2Proof/Decode.lean ====
section
/-! DEFINITION. The command decoder and encoder (30_encoding.md), total on every request, and the model's own flat
frame for a request. -/

namespace Sys2Proof

/-! ## The fields of a command word (R42) -/

/-- `op`, bits 3:0. -/
def cmdOp (w : DWord) : BitVec 4 := w.extractLsb' 0 4
/-- `tid`, bits 5:4. -/
def cmdTid (w : DWord) : BitVec 2 := w.extractLsb' 4 2
/-- `reg`, bits 8:6. -/
def cmdReg (w : DWord) : BitVec 3 := w.extractLsb' 6 3
/-- `rsv`, bits 31:9. -/
def cmdRsv (w : DWord) : BitVec 23 := w.extractLsb' 9 23
/-- `data`, bits 63:32 (R46): "It is not extended, scaled or shifted." -/
def cmdData (w : DWord) : Word := w.extractLsb' 32 32

/-- The word with the given fields and `rsv` zero (R42). -/
def packCmd (op : BitVec 4) (tid : BitVec 2) (reg : BitVec 3) (data : Word) : DWord :=
  data ++ (0 : BitVec 23) ++ reg ++ tid ++ op

/-! ## Operand fields -/

/-- The timer a `tid` names, none for 3 (R44). -/
def timerOf (tid : BitVec 2) : Option TimerId :=
  match tid with
  | 0 => some .t0
  | 1 => some .t1
  | 2 => some .t2
  | _ => none

/-- The register an index names, none for 6 and 7 (R45). -/
def regOf (reg : BitVec 3) : Option RegName :=
  match reg with
  | 0 => some .ctrl0
  | 1 => some .load0
  | 2 => some .cnt0
  | 3 => some .ctrl1
  | 4 => some .load1
  | 5 => some .cnt1
  | _ => none

/-- The `tid` of a timer (R44). -/
def TimerId.bits : TimerId → BitVec 2
  | .t0 => 0
  | .t1 => 1
  | .t2 => 2

/-- The index of a register (10_state.md R13, R45). -/
def RegName.bits : RegName → BitVec 3
  | .ctrl0 => 0
  | .load0 => 1
  | .cnt0 => 2
  | .ctrl1 => 3
  | .load1 => 4
  | .cnt1 => 5

/-- R45's offset of a register: `offset(r) = (r / 3) * 0x10 + (r mod 3) * 4`. The block goes by the parameter `OFF_*`, whose
decided values these are. -/
def RegName.offset (r : RegName) : Nat := (r.bits.toNat / 3) * 0x10 + (r.bits.toNat % 3) * 4

/-- The command an opcode selects with its operand fields, none for a reserved opcode (R43, R54). -/
def commandOf (op : BitVec 4) (tid : BitVec 2) (reg : BitVec 3) (data : Word) : Option Instr :=
  match op with
  | 1 => some (.rd32 tid reg data)
  | 2 => some (.wr32 tid reg data)
  | 3 => some (.setb tid reg data)
  | 4 => some (.clrb tid reg data)
  | 5 => some (.zero tid reg data)
  | 6 => some (.snap64 tid reg data)
  | _ => none

/-! ## Decoding -/

/-- The command decoder (R48): the checks run in this order and the first that applies is the fault reported. -/
def decodeCmd (w : DWord) : Except BlockFault Instr :=
  if cmdRsv w ≠ 0 then .error (.illegalCommand w)
  else match commandOf (cmdOp w) (cmdTid w) (cmdReg w) (cmdData w) with
    | none => .error (.illegalCommand w)
    | some i =>
      if timerOf (cmdTid w) = none then .error (.configError w)
      else if cmdOp w ≠ 6 ∧ regOf (cmdReg w) = none then .error (.illegalRegister w)
      else .ok i

/-- An MMIO transaction is a read or a write by its `we` field (R51); the address decoder runs when it executes (R60). -/
def decodeMmio (x : Transaction) : Instr :=
  if x.we then .busWrite x.size x.addr x.wdata else .busRead x.size x.addr x.wdata

/-- The decoder of both ports, total on every request. -/
def decode : Request → Except BlockFault Instr
  | .command w => decodeCmd w
  | .mmio x => .ok (decodeMmio x)

/-! ## Encoding -/

/-- The request that is an instruction (R42, R43, R51). -/
def Instr.encode : Instr → Request
  | .rd32 tid reg data => .command (packCmd 1 tid reg data)
  | .wr32 tid reg data => .command (packCmd 2 tid reg data)
  | .setb tid reg data => .command (packCmd 3 tid reg data)
  | .clrb tid reg data => .command (packCmd 4 tid reg data)
  | .zero tid reg data => .command (packCmd 5 tid reg data)
  | .snap64 tid reg data => .command (packCmd 6 tid reg data)
  | .busRead size addr wdata => .mmio ⟨false, size, addr, wdata⟩
  | .busWrite size addr wdata => .mmio ⟨true, size, addr, wdata⟩

/-- The command word of a command (a transaction has none, R51). -/
def Instr.word (i : Instr) : DWord :=
  match i.encode with
  | .command w => w
  | .mmio _ => 0

/-! ## The model's flat frame for a request

The spec gives a command a 64-bit word and an MMIO transaction only fields. So that one number can stand for either,
the model frames a request as (DESIGN CHOICE, safe, log 6): bit 64 the port (0 command, 1 MMIO); on the command port
bits 63:0 are the command word; on the MMIO port bits 31:0 are `wdata`, 63:32 `addr`, 65 `we` and 67:66 the size
(1 is one byte, 2 is two bytes, 0 and 3 are four bytes). -/

/-- The size a frame's two size bits name (log 6). -/
def frameSize (b : BitVec 2) : AccessSize :=
  match b with
  | 1 => .byte
  | 2 => .half
  | _ => .word

/-- The request a frame stands for (log 6). -/
def Request.ofFrame (n : Nat) : Request :=
  let f : BitVec 68 := BitVec.ofNat 68 n
  if f.getLsbD 64 then
    .mmio ⟨f.getLsbD 65, frameSize (f.extractLsb' 66 2), f.extractLsb' 32 32, f.extractLsb' 0 32⟩
  else .command (f.extractLsb' 0 64)

/-- The frame of an instruction given by its low `nbits` bits, the bits above them zero. -/
def tableRequest (nbits w : Nat) : Request := Request.ofFrame (w % 2 ^ nbits)

/-- The instruction the decoder reads from a word of spec/opcode_table.json. -/
def decodeTableWord (nbits w : Nat) : Option Instr :=
  match decode (tableRequest nbits w) with
  | .ok i => some i
  | .error _ => none

end Sys2Proof
end

