-- ==== Sys2Proof/Machine/State.lean ====
section
/-! DEFINITION. The state of the block (10_state.md R27) as plain data, with the model's own fields beside it, the
reasons a step could stop, and the state after reset. -/

namespace Sys2Proof.Machine

/-- The register file of one timer (R13). -/
structure TimerRegs where
  ctrl0 : Word
  load0 : Word
  cnt0  : Word
  ctrl1 : Word
  load1 : Word
  cnt1  : Word
deriving DecidableEq, Repr, Inhabited

/-- The snapshot FSM's state (R23). R23 gives `snap.tid` 2 bits and R27 types it `Fin 3`; the model takes R27's three values
(DESIGN CHOICE, log 27). -/
structure Snap where
  phase   : SnapPhase
  tid     : TimerId
  hi1     : Word
  lo      : Word
  hi2     : Word
  retries : Nat
deriving DecidableEq, Repr, Inhabited

/-- The state of the machine. The first three fields are the block's (R27); `cmdWord` is the command word of the SNAP64
in progress, which R93 records when RST aborts it (DEDUCED, safe, log 8); `faults` is the fault mark the spec asks a model
to keep (R26). The rest is the model's own: the parameters, held here so that a claim is made for every value of them
(log 4), the HOST's requests and the responses it has received (log 3), the turns the agents take (log 1), and the
counter that free values are read at (log 24). -/
structure State where
  timers    : PerTimer TimerRegs
  shadow    : PerTimer DWord
  snap      : Snap
  cmdWord   : DWord
  faults    : List BlockFault
  params    : Params
  pending   : List Request
  responses : List Response
  turns     : List Turn
  draws     : Nat
deriving DecidableEq, Repr

/-- The reasons a step stops with a fault: there are none. Every fault of the block is a status in a response, after
which the port is free and the machine goes on (60_exceptions.md R92, R97, R98), so nothing raises a stop (log 20). -/
inductive Fault where
deriving DecidableEq, Repr

/-- The reasons a step is refused. -/
inductive Refusal where
  /-- An instruction that has no meaning yet. Raised by an arm of exec only, and by none of them now; safe. -/
  | notModelled (mnemonic : String)
deriving DecidableEq, Repr

/-- A register file of zeros (70_reset_and_hazards.md R107). -/
def TimerRegs.zero : TimerRegs := ⟨0, 0, 0, 0, 0, 0⟩

/-- The snapshot FSM after RST (R107). -/
def Snap.reset : Snap := ⟨.idle, .t0, 0, 0, 0, 0⟩

/-- The state after RST (R107), with an empty fault mark, nothing asked of the block and no turn fixed. -/
def State.reset : State where
  timers := ⟨.zero, .zero, .zero⟩
  shadow := ⟨0, 0, 0⟩
  snap := .reset
  cmdWord := 0
  faults := []
  params := Config.params
  pending := []
  responses := []
  turns := []
  draws := 0

end Sys2Proof.Machine
end

