-- ==== Sys2Proof/Machine/Flags.lean ====
section
/-! DEFINITION. The bits of the control registers (00_scope.md R9, R10; 10_state.md R16). The block has no condition
flags (R24): its one status flag, busy, is computed from the FSM's state. -/

namespace Sys2Proof

/-- `UDT = 1 << UDT_BIT` (R10). -/
def BitPositions.maskUdt (b : BitPositions) : Word := 1 <<< b.udt
/-- `LOAD = 1 << LOAD_BIT` (R10). -/
def BitPositions.maskLoad (b : BitPositions) : Word := 1 <<< b.load
/-- `ENT = 1 << ENT_BIT` (R10). -/
def BitPositions.maskEnt (b : BitPositions) : Word := 1 <<< b.ent
/-- `CASC = 1 << CASC_BIT` (R10). -/
def BitPositions.maskCasc (b : BitPositions) : Word := 1 <<< b.casc

/-- The direction bit of a control word: 1 counts down (R20). -/
def BitPositions.isDown (b : BitPositions) (c : Word) : Bool := c.getLsbD b.udt
/-- The synchronous-load bit of a control word (R19). -/
def BitPositions.isLoad (b : BitPositions) (c : Word) : Bool := c.getLsbD b.load
/-- The counter-enable bit of a control word (R18). -/
def BitPositions.isEnabled (b : BitPositions) (c : Word) : Bool := c.getLsbD b.ent
/-- The cascade-enable bit of a control word (R17). -/
def BitPositions.isCascade (b : BitPositions) (c : Word) : Bool := c.getLsbD b.casc

namespace Machine

/-- Cascade mode is decided by `CTRL0` alone (R17). -/
def TimerRegs.cascade (T : TimerRegs) (b : BitPositions) : Bool := b.isCascade T.ctrl0

/-- A timer is Running when `CTRL0.ENT = 1` (R18). -/
def TimerRegs.running (T : TimerRegs) (b : BitPositions) : Bool := b.isEnabled T.ctrl0

/-- The command port is busy while the FSM is not idle (R24). -/
def State.busy (s : State) : Bool := s.snap.phase != .idle

end Machine
end Sys2Proof
end

