-- ==== Sys2Proof/Machine/Ops.lean ====
section
/-! DEFINITION. The shared operations: raw register storage, reading and writing a register (40_register_access.md R57),
the load invariant (41_control_encoder.md R66), responding (30_encoding.md R49, R51) and raising a fault
(60_exceptions.md R92 to R96), which is this block's only exception: it has no trap entry and no return (R97, R98). -/

namespace Sys2Proof.Machine

/-! ## Register files -/

/-- The stored word of a register (R11 `REG[t][r]`). -/
def TimerRegs.reg (T : TimerRegs) : RegName → Word
  | .ctrl0 => T.ctrl0
  | .load0 => T.load0
  | .cnt0 => T.cnt0
  | .ctrl1 => T.ctrl1
  | .load1 => T.load1
  | .cnt1 => T.cnt1

/-- Store a word in a register, with no side effect (R11 `REG[t][r] <- v`). -/
def TimerRegs.store (T : TimerRegs) (r : RegName) (v : Word) : TimerRegs :=
  match r with
  | .ctrl0 => { T with ctrl0 := v }
  | .load0 => { T with load0 := v }
  | .cnt0 => { T with cnt0 := v }
  | .ctrl1 => { T with ctrl1 := v }
  | .load1 => { T with load1 := v }
  | .cnt1 => { T with cnt1 := v }

/-- The load invariant's action on one timer (R66): while `CTRLk.LOAD = 1`, `CNTk <- LOADk`. -/
def TimerRegs.applyLoad (T : TimerRegs) (b : BitPositions) : TimerRegs :=
  { T with
    cnt0 := if b.isLoad T.ctrl0 then T.load0 else T.cnt0
    cnt1 := if b.isLoad T.ctrl1 then T.load1 else T.cnt1 }

/-- The logical counter `CNT1 ++ CNT0` (R17, 20_memory.md R33): `CNT1` is the high word whatever the byte order. -/
def TimerRegs.counter (T : TimerRegs) : DWord := T.cnt1 ++ T.cnt0

/-- The register file of one timer. -/
def State.timer (s : State) (t : TimerId) : TimerRegs := s.timers.get t

/-- The positions of the control bits on this board (R9). -/
def State.bits (s : State) : BitPositions := s.params.bits

/-- Replace the register file of one timer. -/
def State.setTimer (s : State) (t : TimerId) (T : TimerRegs) : State := { s with timers := s.timers.set t T }

/-- `readReg` (R57): no side effect (R35). -/
def State.readReg (s : State) (t : TimerId) (r : RegName) : Word := (s.timer t).reg r

/-- A register a port may write (R13): the counters are owned by the hardware (R15). -/
def writable : RegName → Bool
  | .ctrl0 | .load0 | .ctrl1 | .load1 => true
  | .cnt0 | .cnt1 => false

/-- `writeReg` (R57): a control or load register takes all 32 bits and the load invariant follows in the same atomic step
(R12); a counter register takes no write and answers as `CNT_WRITE_POLICY` says (R15). -/
def State.writeReg (s : State) (t : TimerId) (r : RegName) (v : Word) : Except BlockFault State :=
  if writable r then .ok (s.setTimer t (((s.timer t).store r v).applyLoad s.bits))
  else match s.params.cntWritePolicy with
    | .ignore => .ok s
    | .fault => .error (.cntWriteFault t r)

/-! ## Responses and faults -/

/-- The fault codes (R93). `OK` is 0; codes 8 to 15 are never returned. -/
def faultCode : BlockFault → BitVec 4
  | .configError _ => 1
  | .illegalCommand _ => 2
  | .illegalRegister _ => 3
  | .busDecodeError _ _ => 4
  | .cntWriteFault _ _ => 5
  | .retryLimit _ _ => 6
  | .abortedByReset _ => 7

/-- The status of a command or transaction that raised no fault (R93). -/
def statusOk : BitVec 4 := 0

/-- The HOST receives a response (R49, R51). -/
def State.respond (s : State) (a : Response) : State := { s with responses := a :: s.responses }

/-- A response that reports a fault: `data = 0`, `rdata = 0` (R49, R51, R95). -/
def faultResponse (p : Port) (code : BitVec 4) : Response :=
  match p with
  | .command => .command code 0
  | .mmio => .mmio true code 0

/-- Raise a fault at a port: it joins the fault mark with its info (R96) and ends the command or transaction in a response
that carries its code (R92). No register, latch or FSM state changes (R95). -/
def State.raise (s : State) (p : Port) (f : BlockFault) : State :=
  { s with faults := f :: s.faults, responses := faultResponse p (faultCode f) :: s.responses }

/-- End a command in status OK with its data (R49). -/
def State.respondCommand (s : State) (data : DWord) : State := s.respond (.command statusOk data)

/-- End a transaction in `err = 0` with its `rdata` (R51). -/
def State.respondMmio (s : State) (rdata : Word) : State := s.respond (.mmio false statusOk rdata)

/-- A write at a port: `writeReg`, then its outcome as the response (R59, R61). -/
def State.writeAt (s : State) (p : Port) (t : TimerId) (r : RegName) (v : Word) : State :=
  match s.writeReg t r v with
  | .error f => s.raise p f
  | .ok s' => match p with
    | .command => s'.respondCommand 0
    | .mmio => s'.respondMmio 0

end Sys2Proof.Machine
end

