-- ==== Sys2Proof/Machine/Counter.lean ====
section
/-! DEFINITION. The counter datapath: the TICK step (41_control_encoder.md R67 to R69). -/

namespace Sys2Proof.Machine

/-- One count in the direction of a control word, modulo 2^32 (R20, R69). -/
def count (b : BitPositions) (c v : Word) : Word := if b.isDown c then v - 1 else v + 1

/-- Does `CNT0` carry into (or borrow from) `CNT1` in this tick (R68)? Up, it wraps from all ones; down, from zero. -/
def carries (b : BitPositions) (c lo : Word) : Bool :=
  !b.isLoad c && b.isEnabled c && (if b.isDown c then lo == 0 else lo == 0xFFFF_FFFF)

/-- A half that its own control word governs (R69): the load wins, then the enable. -/
def tickHalf (b : BitPositions) (c load v : Word) : Word :=
  if b.isLoad c then load else if b.isEnabled c then count b c v else v

/-- `tickTimer` (R68 in cascade mode, R69 in independent mode). In cascade mode `CTRL0` governs the pair, and of `CTRL1`
only `LOAD` is read. Both halves are computed from the state before the tick (R67). -/
def TimerRegs.tick (T : TimerRegs) (b : BitPositions) : TimerRegs :=
  let hi :=
    if T.cascade b then
      if b.isLoad T.ctrl1 then T.load1
      else if carries b T.ctrl0 T.cnt0 then count b T.ctrl0 T.cnt1
      else T.cnt1
    else tickHalf b T.ctrl1 T.load1 T.cnt1
  { T with cnt0 := tickHalf b T.ctrl0 T.load0 T.cnt0, cnt1 := hi }

/-- TICK (R67): one tick of the shared clock advances all three timers at once. -/
def State.tick (s : State) : State := { s with timers := s.timers.map (·.tick s.bits) }

end Sys2Proof.Machine
end

