-- ==== Sys2Proof/Machine/Operands.lean ====
section
/-! DEFINITION. How an operand names a register: the timer identity resolver (40_register_access.md R56), the command
port's `(tid, reg)` pair (30_encoding.md R44 to R46) and the MMIO address decoder (20_memory.md R30). -/

namespace Sys2Proof.Machine

/-- The resolver (R56): `resolveBase(tid) = BASE[tid]`, none for `tid = 3`. -/
def resolveBase (p : Params) (tid : BitVec 2) : Option Word := (timerOf tid).map p.base.get

/-- The address of a register: `resolveBase(tid) + offset(reg)` (R56). -/
def regAddr (p : Params) (t : TimerId) (r : RegName) : Word := p.base.get t + BitVec.ofNat 32 (p.offsets.get r)

/-- Run a command on the timer its `tid` names, or raise `CONFIG_ERROR` (R44, R56). `i` is the command itself, whose word
the fault mark records (R93). -/
def State.withTimer (s : State) (i : Instr) (tid : BitVec 2) (k : TimerId → State) : State :=
  match timerOf tid with
  | some t => k t
  | none => s.raise .command (.configError i.word)

/-- Run a command on the register its `tid` and `reg` name, or raise `CONFIG_ERROR`, then `ILLEGAL_REGISTER` (R44, R45, R94). -/
def State.withTarget (s : State) (i : Instr) (tid : BitVec 2) (reg : BitVec 3)
    (k : TimerId → RegName → State) : State :=
  s.withTimer i tid fun t =>
    match regOf reg with
    | some r => k t r
    | none => s.raise .command (.illegalRegister i.word)

/-- Does an address fall in the window `[base, base + 0x1F]` (R29, R30)? -/
def inWindow (base addr : Word) : Bool := base.toNat ≤ addr.toNat && addr.toNat ≤ base.toNat + 0x1F

/-- The timer whose window holds an address. Legal windows are disjoint, so at most one does (R29, R30); where a board
breaks R29 the lowest timer number wins (DESIGN CHOICE, unsafe, log 16). -/
def windowOf (p : Params) (addr : Word) : Option TimerId :=
  if inWindow p.base.t0 addr then some .t0
  else if inWindow p.base.t1 addr then some .t1
  else if inWindow p.base.t2 addr then some .t2
  else none

/-- The register at an offset in a window, none at an offset that is no `OFF_*`, as the reserved holes 0x0C and 0x1C are
(R30). Legal offsets are distinct; where a board's are not the lowest index wins (DESIGN CHOICE, unsafe, log 16). -/
def regAtOffset (o : RegOffsets) (off : Nat) : Option RegName :=
  if off = o.ctrl0 then some .ctrl0
  else if off = o.load0 then some .load0
  else if off = o.cnt0 then some .cnt0
  else if off = o.ctrl1 then some .ctrl1
  else if off = o.load1 then some .load1
  else if off = o.cnt1 then some .cnt1
  else none

/-- The address decoder (R30): size, then alignment, then window, then offset. -/
def decodeAddr (p : Params) (addr : Word) (size : AccessSize) : Except BlockFault (TimerId × RegName) :=
  if size ≠ .word then .error (.busDecodeError addr size)
  else if addr.extractLsb' 0 2 ≠ 0 then .error (.busDecodeError addr size)
  else match windowOf p addr with
    | none => .error (.busDecodeError addr size)
    | some t => match regAtOffset p.offsets (addr.toNat - (p.base.get t).toNat) with
      | some r => .ok (t, r)
      | none => .error (.busDecodeError addr size)

/-- The word at an address of the MMIO space, none where no register answers (R28, R30). -/
def State.wordAt (s : State) (addr : Word) : Option Word :=
  match decodeAddr s.params addr .word with
  | .ok (t, r) => some (s.readReg t r)
  | .error _ => none

/-- Byte `k` of a register word as a host's memory holds it (R33): bits `8k+7:8k` when little-endian. -/
def hostByte (o : ByteOrder) (w : Word) (k : Fin 4) : BitVec 8 :=
  match o with
  | .little => w.extractLsb' (8 * k.val) 8
  | .big => w.extractLsb' (8 * (3 - k.val)) 8

end Sys2Proof.Machine
end

