-- ==== Sys2Proof/Machine/ControlEncoder.lean ====
section
/-! DEFINITION. The control register encoder and its three commands (41_control_encoder.md R62 to R65). -/

namespace Sys2Proof.Machine

/-- What the encoder does with a mask (R62). -/
inductive EncoderKind where
  | set | clr | zero
deriving DecidableEq, Repr

/-- The encoder (R62): the next word of a register from its current word and a mask. -/
def encodeBits (k : EncoderKind) (old mask : Word) : Word :=
  match k with
  | .set => old ||| mask
  | .clr => old &&& ~~~mask
  | .zero => 0

/-- `SETB t, REG, mask` (R63): read, OR, write and load in one atomic step. -/
def execSetb (tid : BitVec 2) (reg : BitVec 3) (mask : Word) (s : State) : Host.Outcome State Fault Refusal :=
  .next (s.withTarget (.setb tid reg mask) tid reg fun t r =>
    s.writeAt .command t r (encodeBits .set (s.readReg t r) mask))

/-- `CLRB t, REG, mask` (R64): read, AND with the complement, write and load in one atomic step. -/
def execClrb (tid : BitVec 2) (reg : BitVec 3) (mask : Word) (s : State) : Host.Outcome State Fault Refusal :=
  .next (s.withTarget (.clrb tid reg mask) tid reg fun t r =>
    s.writeAt .command t r (encodeBits .clr (s.readReg t r) mask))

/-- `ZERO t, REG` (R65): the register is not read. -/
def execZero (tid : BitVec 2) (reg : BitVec 3) (data : Word) (s : State) : Host.Outcome State Fault Refusal :=
  .next (s.withTarget (.zero tid reg data) tid reg fun t r =>
    s.writeAt .command t r (encodeBits .zero 0 0))

end Sys2Proof.Machine
end

