-- ==== Sys2Proof/Machine/RegisterAccess.lean ====
section
/-! DEFINITION. The register access family (40_register_access.md): RD32, WR32, BUS_READ, BUS_WRITE. -/

namespace Sys2Proof.Machine

/-- `RD32 t, REG` (R58): respond with the register, zero-extended. No state is written. -/
def execRd32 (tid : BitVec 2) (reg : BitVec 3) (data : Word) (s : State) : Host.Outcome State Fault Refusal :=
  .next (s.withTarget (.rd32 tid reg data) tid reg fun t r => s.respondCommand ((s.readReg t r).zeroExtend 64))

/-- `WR32 t, REG, imm32` (R59): write all 32 bits. -/
def execWr32 (tid : BitVec 2) (reg : BitVec 3) (data : Word) (s : State) : Host.Outcome State Fault Refusal :=
  .next (s.withTarget (.wr32 tid reg data) tid reg fun t r => s.writeAt .command t r data)

/-- `BUS_READ addr` (R60): a raw read by address. -/
def execBusRead (size : AccessSize) (addr : Word) (s : State) : Host.Outcome State Fault Refusal :=
  match decodeAddr s.params addr size with
  | .error f => .next (s.raise .mmio f)
  | .ok (t, r) => .next (s.respondMmio (s.readReg t r))

/-- `BUS_WRITE addr, wdata` (R61): a raw write by address. -/
def execBusWrite (size : AccessSize) (addr wdata : Word) (s : State) : Host.Outcome State Fault Refusal :=
  match decodeAddr s.params addr size with
  | .error f => .next (s.raise .mmio f)
  | .ok (t, r) => .next (s.writeAt .mmio t r wdata)

end Sys2Proof.Machine
end

