-- ==== Sys2Proof/Machine/Snapshot.lean ====
section
/-! DEFINITION. The snapshot unit: SNAP64 and the double-read FSM (42_counter_reader.md R72 to R78). -/

namespace Sys2Proof.Machine

/-- `SNAP64 t` (R72), the step that accepts the command: no register is read in it, and the response comes later. The FSM
keeps the command word for R93. -/
def execSnap64 (tid : BitVec 2) (reg : BitVec 3) (data : Word) (s : State) : Host.Outcome State Fault Refusal :=
  .next (s.withTimer (.snap64 tid reg data) tid fun t =>
    { s with
      snap := { s.snap with tid := t, retries := 0, phase := .rdHi1 }
      cmdWord := (Instr.snap64 tid reg data).word })

/-- The FSM goes to a phase. -/
def State.goto (s : State) (p : SnapPhase) : State := { s with snap := { s.snap with phase := p } }

/-- The FSM returns to `IDLE` and the block forgets the command (R39, R78). -/
def State.endSnapshot (s : State) : State := { s.goto .idle with cmdWord := 0 }

/-- Accept (R76): latch the first upper reading with the lower one, and respond with the latch. -/
def State.acceptSnapshot (s : State) : State :=
  let v : DWord := s.snap.hi1 ++ s.snap.lo
  { s.endSnapshot with shadow := s.shadow.set s.snap.tid v }.respondCommand v

/-- Retry (R77): read the whole triple again, or raise `RETRY_LIMIT` at the cap and return to `IDLE` (R95). -/
def State.retrySnapshot (s : State) : State :=
  if s.params.maxRetries = some s.snap.retries then
    s.endSnapshot.raise .command (.retryLimit s.snap.tid s.snap.retries)
  else { s with snap := { s.snap with retries := s.snap.retries + 1, phase := .rdHi1 } }

/-- One step of the SNAP agent (R73 to R76). With the FSM `IDLE` the agent has no step (R7), and its turn passes
(DESIGN CHOICE, safe, log 2). A power-up draw can leave the FSM in another state with no SNAP64 in progress: R7 gives SNAP
a step only during a SNAP64, and R73 to R77 go by `snap.state` alone. The model goes by `snap.state`, so the FSM runs on
and its CMP step can answer the HOST, OK or RETRY_LIMIT, with no request before it (DESIGN CHOICE, unsafe, log 26). -/
def State.snapStep (s : State) : State :=
  match s.snap.phase with
  | .idle => s
  | .rdHi1 => { s with snap := { s.snap with hi1 := s.readReg s.snap.tid .cnt1, phase := .rdLo } }
  | .rdLo => { s with snap := { s.snap with lo := s.readReg s.snap.tid .cnt0, phase := .rdHi2 } }
  | .rdHi2 => { s with snap := { s.snap with hi2 := s.readReg s.snap.tid .cnt1, phase := .cmp } }
  | .cmp => if s.snap.hi1 = s.snap.hi2 then s.acceptSnapshot else s.retrySnapshot

end Sys2Proof.Machine
end

