-- ==== Sys2Proof/Machine/Dispatch.lean ====
section
/-! DEFINITION. One arm per instruction. -/

namespace Sys2Proof.Machine

/-- The meaning of an instruction when a port accepts it. -/
def exec (i : Instr) (s : State) : Host.Outcome State Fault Refusal :=
  match i with
  | .rd32 tid reg data => Sys2Proof.Machine.execRd32 tid reg data s
  | .wr32 tid reg data => Sys2Proof.Machine.execWr32 tid reg data s
  | .setb tid reg data => Sys2Proof.Machine.execSetb tid reg data s
  | .clrb tid reg data => Sys2Proof.Machine.execClrb tid reg data s
  | .zero tid reg data => Sys2Proof.Machine.execZero tid reg data s
  | .snap64 tid reg data => Sys2Proof.Machine.execSnap64 tid reg data s
  | .busRead size addr _ => Sys2Proof.Machine.execBusRead size addr s
  | .busWrite size addr wdata => Sys2Proof.Machine.execBusWrite size addr wdata s

end Sys2Proof.Machine
end

