-- ==== Sys2Proof/Machine/ResetPower.lean ====
section
/-! DEFINITION. The RST event and the power cycle (70_reset_and_hazards.md R106 to R110). -/

namespace Sys2Proof.Machine

/-- RST (R107), one atomic step: every register, latch and FSM field to its reset value. A SNAP64 in progress is answered
with `ABORTED_BY_RESET`, and its word joins the fault mark (R93). The parameters and the fault mark stay (R108). An FSM that
a power-up draw left busy counts as a SNAP64 in progress (DESIGN CHOICE, unsafe, log 26). -/
def State.rst (s : State) : State :=
  let s' := { s with
    timers := ⟨.zero, .zero, .zero⟩
    shadow := ⟨0, 0, 0⟩
    snap := .reset
    cmdWord := 0 }
  if s.busy then s'.raise .command (.abortedByReset s.cmdWord) else s'

/-- The register file draw `n` gives a timer at power-up (R106). -/
def powerUpRegs (n : Nat) (t : TimerId) : TimerRegs where
  ctrl0 := Config.freeReg n t .ctrl0
  load0 := Config.freeReg n t .load0
  cnt0 := Config.freeReg n t .cnt0
  ctrl1 := Config.freeReg n t .ctrl1
  load1 := Config.freeReg n t .load1
  cnt1 := Config.freeReg n t .cnt1

/-- The power cycle (R109): all state is lost, and every register of 10_state.md is a draw (R106). It is an event of the
outside world between two steps and no agent's step (R7; DESIGN CHOICE, log 9). The draw may leave the FSM busy with no
command in progress (log 26), and a half with `LOAD = 1` at another value than its load register, which it then keeps until
a write of a control or load register of that timer, a TICK or RST (DESIGN CHOICE, unsafe, log 28). The model's fault mark counts since launch and stays (R26), as do the parameters, and the
HOST's requests and responses are not the block's (DESIGN CHOICE, log 9). -/
def State.powerCycle (s : State) : State :=
  { s with
    timers := ⟨powerUpRegs s.draws .t0, powerUpRegs s.draws .t1, powerUpRegs s.draws .t2⟩
    shadow := ⟨Config.freeShadow s.draws .t0, Config.freeShadow s.draws .t1, Config.freeShadow s.draws .t2⟩
    snap :=
      { phase := Config.freePhase s.draws
        tid := Config.freeTid s.draws
        hi1 := Config.freeReading s.draws .hi1
        lo := Config.freeReading s.draws .lo
        hi2 := Config.freeReading s.draws .hi2
        retries := Config.freeRetries s.draws }
    cmdWord := Config.freeCmdWord s.draws
    draws := s.draws + 1 }

end Sys2Proof.Machine
end

