-- ==== Sys2Proof/Machine/Agents.lean ====
section
/-! DEFINITION. Whose turn it is, and what each agent does in its turn (00_scope.md R7, R8). -/

namespace Sys2Proof.Machine

/-- The agent that moves next. The spec fixes no order (R8): the state's turns say, and after them a free value (log 1). -/
def State.nextTurn (s : State) : Turn :=
  match s.turns with
  | a :: _ => a
  | [] => Config.freeTurn s.draws

/-- The state with that turn taken from it. -/
def State.takeTurn (s : State) : State :=
  match s.turns with
  | _ :: rest => { s with turns := rest }
  | [] => { s with draws := s.draws + 1 }

/-- The block answers a request: the instruction it decodes to runs, or the decoder's fault is the response (R48, R54). -/
def serve (q : Request) (s : State) : Host.Outcome State Fault Refusal :=
  match decode q with
  | .ok i => exec i s
  | .error f => .next (s.raise q.port f)

/-- The HOST's turn. It issues its next request; while a command is in progress it issues nothing (R40, R50), and with no
request left it has no step. In both cases the turn passes (DESIGN CHOICE, safe, log 2). -/
def hostTurn (s : State) : Host.Outcome State Fault Refusal :=
  if s.busy then .next s
  else match s.pending with
    | [] => .next s
    | q :: rest => serve q { s with pending := rest }

/-- One agent's turn. -/
def runTurn (a : Turn) (s : State) : Host.Outcome State Fault Refusal :=
  match a with
  | .host => hostTurn s
  | .tick => .next s.tick
  | .snap => .next s.snapStep
  | .rst => .next s.rst

end Sys2Proof.Machine
end

