-- ==== Sys2Proof/Machine/Step.lean ====
section
/-! DEFINITION. One step of the machine, and the loading of one instruction. -/

namespace Sys2Proof.Machine

/-- One step is a step of exactly one agent (R7). -/
def step (s : State) : Host.Outcome State Fault Refusal := runTurn s.nextTurn s.takeTurn

/-- The state with one instruction ready as the very next step: its request at the head of the HOST's stream, the next
turn the HOST's, and the command port free (log 7). -/
def State.withFetchWord (s : State) (nbits w : Nat) : State :=
  { s with
    snap := { s.snap with phase := .idle }
    pending := tableRequest nbits w :: s.pending
    turns := .host :: s.turns }

end Sys2Proof.Machine
end

