-- ==== Sys2Proof/Machine/Assembly.lean ====
section
/-! DEFINITION. The spec's assembler notation (30_encoding.md R52, notation only: D30), as a printer. -/

namespace Sys2Proof.Machine

/-- `t<n>`, with `t3` for fault tests (R52). -/
def timerText (tid : BitVec 2) : String := "t" ++ String.ofList (Nat.toDigits 10 tid.toNat)

/-- The name of a register (R13, R52). -/
def regText : RegName → String
  | .ctrl0 => "CTRL0"
  | .load0 => "LOAD0"
  | .cnt0 => "CNT0"
  | .ctrl1 => "CTRL1"
  | .load1 => "LOAD1"
  | .cnt1 => "CNT1"

/-- A 32-bit number. -/
def wordText (w : Word) : String := "0x" ++ String.ofList (Nat.toDigits 16 w.toNat)

/-- A mnemonic with its `t<n>, <REG>` operands, none where `reg` names no register (R52). -/
def targetText (mnemonic : String) (tid : BitVec 2) (reg : BitVec 3) : Option String :=
  (regOf reg).map fun r => mnemonic ++ " " ++ timerText tid ++ ", " ++ regText r

/-- The notation of an instruction (R52). An ignored field is not written. None where the notation has no form: a register
index that names no register, and an MMIO size other than 4. -/
def Instr.text : Instr → Option String
  | .rd32 tid reg _ => targetText "RD32" tid reg
  | .wr32 tid reg data => (targetText "WR32" tid reg).map (· ++ ", " ++ wordText data)
  | .setb tid reg data => (targetText "SETB" tid reg).map (· ++ ", " ++ wordText data)
  | .clrb tid reg data => (targetText "CLRB" tid reg).map (· ++ ", " ++ wordText data)
  | .zero tid reg _ => targetText "ZERO" tid reg
  | .snap64 tid _ _ => some ("SNAP64 " ++ timerText tid)
  | .busRead size addr _ => if size = .word then some ("BUSRD " ++ wordText addr) else none
  | .busWrite size addr wdata =>
    if size = .word then some ("BUSWR " ++ wordText addr ++ ", " ++ wordText wdata) else none

end Sys2Proof.Machine
end

