-- ==== Sys2Proof/Machine/Duration.lean ====
section
/-! DEFINITION. The HOST's Duration Converter (43_host_sequences.md R89) over the bits of IEEE 754 binary64 numbers.
It is host software: no rule of the block depends on it (R5). -/

namespace Sys2Proof.Machine

/-- The binary64 number nearest to `n / d`, ties to even, as bits (R89; for a positive `d`). The quotient is scaled by
`2 ^ -k` so that it has 53 bits, or fewer where the number is subnormal (`k = -1074`). An exponent field and the scaled
quotient then add up to the bits, a carry out of the significand included, and a result beyond the largest number is
infinity. -/
def roundBinary64 (n d : Nat) : BitVec 64 :=
  if n = 0 then 0
  else
    let k0 : Int := (n.log2 : Int) - (d.log2 : Int) - 52
    let k1 : Int := if n * 2 ^ (-k0).toNat < 2 ^ 52 * (d * 2 ^ k0.toNat) then k0 - 1 else k0
    let k : Int := max k1 (-1074)
    let num := n * 2 ^ (-k).toNat
    let den := d * 2 ^ k.toNat
    let q := num / den
    let r := num % den
    let rounded := if den < 2 * r ∨ (2 * r = den ∧ q % 2 = 1) then q + 1 else q
    BitVec.ofNat 64 (min ((k + 1074).toNat * 2 ^ 52 + rounded) 0x7FF0_0000_0000_0000)

/-- What the bits of a binary64 number stand for, its sign apart: `m * 2 ^ e`, infinity, or no number. -/
inductive Magnitude where
  | finite (m : Nat) (e : Int)
  | infinity
  | nan
deriving DecidableEq, Repr

/-- The magnitude of a binary64 number. -/
def magnitude (b : BitVec 64) : Magnitude :=
  let e := (b.extractLsb' 52 11).toNat
  let f := (b.extractLsb' 0 52).toNat
  if e = 0x7FF then (if f = 0 then .infinity else .nan)
  else if e = 0 then .finite f (-1074)
  else .finite (2 ^ 52 + f) ((e : Int) - 1075)

/-- The sign bit of `b` with the magnitude bits `v`. -/
def withSignOf (b v : BitVec 64) : BitVec 64 := (b &&& 0x8000_0000_0000_0000) ||| v

/-- A quiet NaN. IEEE 754 does not fix its sign or its payload, which are free (log 17). -/
def quietNan (ticks : DWord) (frequencyHz : BitVec 64) : BitVec 64 :=
  Config.freeNan ticks frequencyHz ||| 0x7FF8_0000_0000_0000

/-- `ticksToSeconds(ticks, frequencyHz) = ticks / frequencyHz` (R89), the IEEE 754 division of any binary64 frequency: the
tick count is converted first, which rounds from 2^53 on, and the quotient is rounded once and takes the frequency's
sign. A frequency of zero gives infinity, or NaN where no tick was counted; an infinite one gives zero. (A count
is at most 2^64, so its conversion is finite.) -/
def ticksToSeconds (ticks : DWord) (frequencyHz : BitVec 64) : BitVec 64 :=
  match magnitude frequencyHz with
  | .nan => quietNan ticks frequencyHz
  | .infinity => withSignOf frequencyHz 0
  | .finite 0 _ =>
    if ticks = 0 then quietNan ticks frequencyHz else withSignOf frequencyHz 0x7FF0_0000_0000_0000
  | .finite mf ef =>
    match magnitude (roundBinary64 ticks.toNat 1) with
    | .finite mt et =>
      withSignOf frequencyHz (roundBinary64 (mt * 2 ^ (et - ef).toNat) (mf * 2 ^ (ef - et).toNat))
    | .infinity | .nan => withSignOf frequencyHz 0x7FF0_0000_0000_0000

end Sys2Proof.Machine
end

