-- ==== Sys2Proof/Machine/HostSequences.lean ====
section
/-! DEFINITION. The HOST's programs: the pseudo-instructions of 30_encoding.md R53 and the lifecycle calls of
43_host_sequences.md R83 to R91. They bind the HOST, not the block (R5), and reach the block only through its ports. -/

namespace Sys2Proof.Machine

/-! ## The command sequences (R53, R84 to R87) -/

/-- `START t` (R86). -/
def startCommands (b : BitPositions) (tid : BitVec 2) : List Instr := [.setb tid RegName.ctrl0.bits b.maskEnt]

/-- `STOP t` (R87). -/
def stopCommands (b : BitPositions) (tid : BitVec 2) : List Instr := [.clrb tid RegName.ctrl0.bits b.maskEnt]

/-- `RESET t` (R85): stop, pulse the load bit high then low on both control registers, set the cascade bit. -/
def resetCommands (b : BitPositions) (tid : BitVec 2) : List Instr :=
  [.clrb tid RegName.ctrl0.bits b.maskEnt,
   .setb tid RegName.ctrl0.bits b.maskLoad, .setb tid RegName.ctrl1.bits b.maskLoad,
   .clrb tid RegName.ctrl0.bits b.maskLoad, .clrb tid RegName.ctrl1.bits b.maskLoad,
   .setb tid RegName.ctrl0.bits b.maskCasc]

/-- The writes of `INIT t` (R84), before its check. -/
def initCommands (b : BitPositions) (tid : BitVec 2) : List Instr :=
  [.zero tid RegName.ctrl0.bits 0, .zero tid RegName.ctrl1.bits 0,
   .zero tid RegName.load0.bits 0, .zero tid RegName.load1.bits 0] ++ resetCommands b tid

/-! ## Programs on the ports -/

/-- What a host call returns. `INIT_VERIFY_FAIL` and `BATCH_FAILURE` are results of host programs and no codes of the
block (60_exceptions.md R105). -/
inductive HostResult where
  | ok
  | fault (status : BitVec 4)
  | initVerifyFail (tid : BitVec 2)
  | batchFailure (tid : BitVec 2) (cause : HostResult)
  | seconds (bits : BitVec 64)
deriving DecidableEq, Repr

/-- A host program: it returns, or it issues an instruction and goes on with the response (R37, R50: every access is
blocking). It is the HOST's and no part of State. -/
inductive HostProgram where
  | done (r : HostResult)
  | call (i : Instr) (k : Response → HostProgram)

/-- The status code a response carries (R49, R51). -/
def responseStatus : Response → BitVec 4
  | .command status _ => status
  | .mmio _ code _ => code

/-- The data a response carries (R49, R51). -/
def responseData : Response → DWord
  | .command _ data => data
  | .mmio _ _ rdata => rdata.zeroExtend 64

/-- Issue an instruction and go on with its data; on a fault "the HOST stops and returns that fault" (R84). -/
def HostProgram.checked (i : Instr) (k : DWord → HostProgram) : HostProgram :=
  .call i fun a => if responseStatus a = statusOk then k (responseData a) else .done (.fault (responseStatus a))

/-- Issue instructions in order, stopping at the first fault. -/
def HostProgram.sequence : List Instr → HostProgram → HostProgram
  | [], k => k
  | i :: is, k => .checked i fun _ => .sequence is k

/-- Run a program, then go on with its result. -/
def HostProgram.bind : HostProgram → (HostResult → HostProgram) → HostProgram
  | .done r, f => f r
  | .call i k, f => .call i fun a => (k a).bind f

/-- `INIT t` (R84): the writes, then the check of two plain counter reads and of `CASC` in `CTRL0` only. -/
def initProgram (bits : BitPositions) (tid : BitVec 2) : HostProgram :=
  .sequence (initCommands bits tid) <|
    .checked (.rd32 tid RegName.cnt0.bits 0) fun a =>
      .checked (.rd32 tid RegName.cnt1.bits 0) fun b =>
        .checked (.rd32 tid RegName.ctrl0.bits 0) fun c =>
          .done (if a = 0 ∧ b = 0 ∧ c &&& bits.maskCasc.zeroExtend 64 ≠ 0 then .ok else .initVerifyFail tid)

/-- `RESET t` (R85). -/
def resetProgram (b : BitPositions) (tid : BitVec 2) : HostProgram := .sequence (resetCommands b tid) (.done .ok)

/-- `START t` (R86). -/
def startProgram (b : BitPositions) (tid : BitVec 2) : HostProgram := .sequence (startCommands b tid) (.done .ok)

/-- `STOP t` (R87). -/
def stopProgram (b : BitPositions) (tid : BitVec 2) : HostProgram := .sequence (stopCommands b tid) (.done .ok)

/-- `ELAPSED t` (R88): a snapshot, then its duration at `CLK_HZ`. -/
def elapsedProgram (clkHz : BitVec 64) (tid : BitVec 2) : HostProgram :=
  .checked (.snap64 tid 0 0) fun ticks => .done (.seconds (ticksToSeconds ticks clkHz))

/-- Run `INIT` on timers in order, stopping at the first that does not return OK; nothing is rolled back (R90). -/
def initEach (b : BitPositions) : List (BitVec 2) → HostProgram
  | [] => .done .ok
  | tid :: rest => (initProgram b tid).bind fun r => if r = .ok then initEach b rest else .done (.batchFailure tid r)

/-- `INITALL` (R90). -/
def initAllProgram (b : BitPositions) : HostProgram := initEach b [TimerId.t0.bits, TimerId.t1.bits, TimerId.t2.bits]

/-- `RESETALL` (R91): unconditionally all three, and the result is always OK. -/
def resetAllProgram (b : BitPositions) : HostProgram :=
  (resetProgram b TimerId.t0.bits).bind fun _ =>
    (resetProgram b TimerId.t1.bits).bind fun _ => (resetProgram b TimerId.t2.bits).bind fun _ => .done .ok

/-- The calls of the Timer Lifecycle Orchestrator (R84 to R91). -/
inductive HostCall where
  | init (tid : BitVec 2)
  | reset (tid : BitVec 2)
  | start (tid : BitVec 2)
  | stop (tid : BitVec 2)
  | elapsed (tid : BitVec 2)
  | initAll
  | resetAll
deriving DecidableEq, Repr

/-- The program of a call, for a block with the given parameters. -/
def HostCall.program (p : Params) : HostCall → HostProgram
  | .init tid => initProgram p.bits tid
  | .reset tid => resetProgram p.bits tid
  | .start tid => startProgram p.bits tid
  | .stop tid => stopProgram p.bits tid
  | .elapsed tid => elapsedProgram p.clkHz tid
  | .initAll => initAllProgram p.bits
  | .resetAll => resetAllProgram p.bits

/-! ## The lifecycle state the HOST keeps (R83) -/

/-- The HOST's state of one timer; the block keeps none of it (R83). -/
inductive Lifecycle where
  | uninitialized | stopped | running
deriving DecidableEq, Repr

/-- The lifecycle state of a timer after a call that did its work on it. "Uninitialized means only that the HOST has not yet
run INIT" (R83), so only INIT leaves it (DEDUCED, log 18). -/
def Lifecycle.after (l : Lifecycle) : HostCall → Lifecycle
  | .init _ => .stopped
  | .initAll => .stopped
  | .reset _ => if l = .uninitialized then .uninitialized else .stopped
  | .resetAll => if l = .uninitialized then .uninitialized else .stopped
  | .start _ => if l = .uninitialized then .uninitialized else .running
  | .stop _ => if l = .uninitialized then .uninitialized else .stopped
  | .elapsed _ => l

/-- Did a call that returned `r` do its work on timer `t`? An INITALL that fails at one timer has initialized the earlier
ones and "is left as-is, not rolled back" (R90). -/
def HostCall.worksOn (c : HostCall) (r : HostResult) (t : TimerId) : Bool :=
  match c with
  | .init tid | .reset tid | .start tid | .stop tid => r = .ok && tid = t.bits
  | .elapsed _ => false
  | .initAll =>
    match r with
    | .ok => true
    | .batchFailure tid _ => t.bits.toNat < tid.toNat
    | .fault _ | .initVerifyFail _ | .seconds _ => false
  | .resetAll => r = .ok

/-- The lifecycle states the HOST keeps after a call that returned `r` (R83). -/
def HostCall.lifecycles (c : HostCall) (r : HostResult) (l : PerTimer Lifecycle) : PerTimer Lifecycle :=
  let next (t : TimerId) : Lifecycle := if c.worksOn r t then (l.get t).after c else l.get t
  ⟨next .t0, next .t1, next .t2⟩

/-! ## Running a program on the machine -/

/-- A HOST at work: the call it is in, the rest of its program, whether its last request is unanswered, the lifecycle state
it keeps of each timer (R83), and the machine. -/
structure Session where
  call        : HostCall
  prog        : HostProgram
  outstanding : Bool
  lifecycle   : PerTimer Lifecycle
  machine     : State

/-- The lifecycle states of a HOST that has run no `INIT` yet (R83). -/
def Lifecycle.initial : PerTimer Lifecycle := ⟨.uninitialized, .uninitialized, .uninitialized⟩

/-- A HOST about to make a call, with the lifecycle states it keeps: nothing outstanding, the machine as it is. -/
def State.session (s : State) (l : PerTimer Lifecycle) (c : HostCall) : Session := ⟨c, c.program s.params, false, l, s⟩

/-- The HOST makes its next call. -/
def Session.next (h : Session) (c : HostCall) : Session :=
  { h with call := c, prog := c.program h.machine.params, outstanding := false }

/-- The HOST's turn begins: with nothing outstanding and the port free it puts its next request up (R50). -/
def Session.issue (h : Session) : Session :=
  if h.outstanding || h.machine.busy then h
  else match h.prog with
    | .done _ => h
    | .call i _ => { h with outstanding := true, machine := { h.machine with pending := [i.encode] } }

/-- The HOST goes on with the rest of its program; where that is a result, the call has returned and the lifecycle states
follow (R83). -/
def Session.goOn (h : Session) (p : HostProgram) : Session :=
  match p with
  | .done r => { h with prog := p, outstanding := false, lifecycle := h.call.lifecycles r h.lifecycle }
  | .call _ _ => { h with prog := p, outstanding := false }

/-- The machine has moved on; a new response, if one came for the HOST's request, continues its program. -/
def Session.receive (h : Session) (s : State) : Session :=
  match h.prog, s.responses with
  | .call _ k, a :: _ =>
    if h.outstanding ∧ h.machine.responses.length < s.responses.length then ({ h with machine := s } : Session).goOn (k a)
    else { h with machine := s }
  | _, _ => { h with machine := s }

/-- One agent's turn while the HOST runs its program. The machine never stops (log 20), so the other outcomes of a turn
leave the session as it is. -/
def Session.turn (h : Session) (a : Turn) : Session :=
  let h := if a = .host then h.issue else h
  match runTurn a h.machine with
  | .next s => h.receive s
  | .fault _ => h
  | .refused _ => h

/-- The turns of the agents in order. -/
def Session.run (h : Session) (turns : List Turn) : Session := turns.foldl Session.turn h

end Sys2Proof.Machine
end

