-- ==== Sys2Proof/Machine/Lifetime.lean ====
section
/-! DEFINITION. The lifetime of a board: steps of the agents with power cycles between them (70_reset_and_hazards.md R109). -/

namespace Sys2Proof.Machine

/-- What can happen to a block: a step of one of its agents (00_scope.md R7), or a power cycle (R109), which the outside
world brings and which is no step (log 9). -/
inductive Event where
  | step | powerCycle
deriving DecidableEq, Repr

/-- One event. A power cycle can fall between any two steps, inside a SNAP64 too. -/
def State.event (s : State) : Event → Host.Outcome State Fault Refusal
  | .step => Machine.step s
  | .powerCycle => .next s.powerCycle

/-- A lifetime: events in order, stopping at the first that is no next state. -/
def lifetime : List Event → State → Host.Outcome State Fault Refusal
  | [], s => .next s
  | e :: es, s =>
    match s.event e with
    | .next s' => lifetime es s'
    | .fault r => .fault r
    | .refused r => .refused r

end Sys2Proof.Machine
end

