-- ==== Sys2Proof/Safety.lean ====
section
/-! DEFINITION. The terms claims are stated in: the invariants of a safe run, the effect of a register write as the spec
describes it, and the snapshot schedules of 95_test_vectors.md section 1. -/

namespace Sys2Proof.Machine

/-- `CTRLk.LOAD = 1` implies `CNTk = LOADk` in one timer (41_control_encoder.md R66, 10_state.md R19). -/
abbrev TimerRegs.LoadHeld (T : TimerRegs) (b : BitPositions) : Prop :=
  (b.isLoad T.ctrl0 = true → T.cnt0 = T.load0) ∧ (b.isLoad T.ctrl1 = true → T.cnt1 = T.load1)

/-- The load invariant of the block (R66). -/
abbrev State.LoadInv (s : State) : Prop :=
  (s.timer .t0).LoadHeld s.bits ∧ (s.timer .t1).LoadHeld s.bits ∧ (s.timer .t2).LoadHeld s.bits

/-- What every step keeps: legal parameters (R10, R29), the load invariant (R66), and no command kept by an idle FSM
(R39). -/
abbrev State.Inv (s : State) : Prop :=
  s.params.legal ∧ s.LoadInv ∧ (s.snap.phase = .idle → s.cmdWord = 0)

/-- A run of a HOST program raised no fault: "the fault mark is empty at the end" (60_exceptions.md R96). -/
abbrev State.clean (s : State) : Prop := s.faults = []

/-- Register `r` of timer `t` took the word `v` and the response `a` went out, and nothing else happened but the load that
follows every write (40_register_access.md R57, R12, R66). Stated by what reads back, without the model's own write. -/
def RegisterWritten (s s' : State) (t : TimerId) (r : RegName) (v : Word) (a : Response) : Prop :=
  s' = { s with timers := s'.timers, responses := a :: s.responses } ∧
  (∀ t', t' ≠ t → s'.timer t' = s.timer t') ∧
  s'.readReg t r = v ∧
  (∀ r', r' ≠ r → r' ≠ .cnt0 → r' ≠ .cnt1 → s'.readReg t r' = s.readReg t r') ∧
  s'.readReg t .cnt0 =
    (if (s'.readReg t .ctrl0).getLsbD s.bits.load then s'.readReg t .load0 else s.readReg t .cnt0) ∧
  s'.readReg t .cnt1 =
    (if (s'.readReg t .ctrl1).getLsbD s.bits.load then s'.readReg t .load1 else s.readReg t .cnt1)

/-- `n` steps of the machine, stopping at the first that is no next state. -/
def run : Nat → State → Host.Outcome State Fault Refusal
  | 0, s => .next s
  | n + 1, s =>
    match step s with
    | .next s' => run n s'
    | .fault r => .fault r
    | .refused r => .refused r

/-- The register file of a timer after `n` ticks. -/
def TimerRegs.ticks (b : BitPositions) : Nat → TimerRegs → TimerRegs
  | 0, T => T
  | n + 1, T => (T.tick b).ticks b n

/-- How often `CNT1` changes in the next `n` ticks (42_counter_reader.md R79). -/
def TimerRegs.cnt1Changes (b : BitPositions) : Nat → TimerRegs → Nat
  | 0, _ => 0
  | n + 1, T => (if (T.tick b).cnt1 = T.cnt1 then 0 else 1) + (T.tick b).cnt1Changes b n

/-- The end state R85 gives RESET, from the state before it. -/
def TimerRegs.afterReset (T : TimerRegs) (b : BitPositions) : TimerRegs where
  ctrl0 := (T.ctrl0 &&& ~~~ (b.maskEnt ||| b.maskLoad)) ||| b.maskCasc
  load0 := T.load0
  cnt0 := T.load0
  ctrl1 := T.ctrl1 &&& ~~~ b.maskLoad
  load1 := T.load1
  cnt1 := T.load1

/-- `n` TICK turns. -/
def tickTurns (n : Nat) : List Turn := List.replicate n .tick

/-- The turns of one triple `a b c` of a SNAP64 schedule (95_test_vectors.md section 1): RD_HI1, `a` ticks, RD_LO, `b` ticks,
RD_HI2, `c` ticks, CMP. -/
def tripleTurns (a b c : Nat) : List Turn :=
  .snap :: (tickTurns a ++ .snap :: (tickTurns b ++ .snap :: (tickTurns c ++ [.snap])))

/-- A triple with one tick in every gap and one before the next triple, `n` times over (70_reset_and_hazards.md R115). -/
def busyTriples : Nat → List Turn
  | 0 => []
  | n + 1 => tripleTurns 1 1 1 ++ (.tick :: busyTriples n)

/-- It is the HOST's turn, the port is free, and `q` is the HOST's next request: the next step answers `q`. -/
abbrev State.issues (s : State) (q : Request) (rest : List Request) : Prop :=
  s.nextTurn = .host ∧ s.busy = false ∧ s.pending = q :: rest

/-- What the block answers `q` in: the state with the turn taken and the request off the HOST's stream. -/
def State.issued (s : State) (rest : List Request) : State := { s.takeTurn with pending := rest }

/-- Turns of the HOST and TICK agents only, with at least `n` of the HOST's. -/
abbrev hostTicks (n : Nat) (turns : List Turn) : Prop :=
  (∀ a ∈ turns, a = .host ∨ a = .tick) ∧ n ≤ turns.count .host

end Sys2Proof.Machine
end

