-- ==== Sys2Proof/Certificates/Slice0/Obligations.lean ====
section
/-! DEFINITION. The statements for the provers, from the numbered rules of spec/. -/

open Sys2Proof Sys2Proof.Machine

/-! ## Encoding (30_encoding.md) -/

/-- R55 (which the spec marks as derived from R42 to R45): the worked encodings, each written out as the table has it, and what
each decodes to. The last row is the one the decoder rejects with CONFIG_ERROR. -/
def Obligations.WorkedEncodings : Prop :=
  (∀ p ∈ [(Instr.setb 0 0 0x80, 0x0000_0080_0000_0003#64), (Instr.clrb 0 0 0x80, 0x0000_0080_0000_0004#64),
      (Instr.setb 0 3 0x20, 0x0000_0020_0000_00C3#64), (Instr.clrb 0 3 0x20, 0x0000_0020_0000_00C4#64),
      (Instr.setb 0 0 0x800, 0x0000_0800_0000_0003#64), (Instr.zero 0 4 0, 0x0000_0000_0000_0105#64),
      (Instr.rd32 0 5 0, 0x0000_0000_0000_0141#64), (Instr.snap64 2 0 0, 0x0000_0000_0000_0026#64),
      (Instr.wr32 1 4 0x1234_5678, 0x1234_5678_0000_0112#64)],
    p.1.encode = .command p.2 ∧ decode (.command p.2) = .ok p.1) ∧
  (Instr.rd32 3 2 0).encode = .command 0x0000_0000_0000_00B1 ∧
  decode (.command 0x0000_0000_0000_00B1) = .error (.configError 0x0000_0000_0000_00B1)

/-- R42 to R46, R51: decoding an encoded well-formed instruction gives it back, every field at every value, the ignored
fields too. -/
def Obligations.DecodeOfEncode : Prop :=
  ∀ i : Instr, i.wf = true → decode i.encode = .ok i

/-- The other direction: a request that decodes has exactly one instruction, whose encoding is that request and whose
fields are legal. -/
def Obligations.EncodeOfDecode : Prop :=
  ∀ (q : Request) (i : Instr), decode q = .ok i → i.encode = q ∧ i.wf = true

/-- R48: the decoder's checks in their order, over the bit fields of R42, and what a word that fails one does: no state of
the block changes, and the fault is the response. -/
def Obligations.DecoderCheckOrder : Prop :=
  ∀ w : DWord,
    let op := w.extractLsb' 0 4
    let tid := w.extractLsb' 4 2
    let reg := w.extractLsb' 6 3
    let rsv := w.extractLsb' 9 23
    let legalOp := 1 ≤ op.toNat ∧ op.toNat ≤ 6
    (rsv ≠ 0 → decode (.command w) = .error (.illegalCommand w)) ∧
    (rsv = 0 → ¬ legalOp → decode (.command w) = .error (.illegalCommand w)) ∧
    (rsv = 0 → legalOp → tid = 3 → decode (.command w) = .error (.configError w)) ∧
    (rsv = 0 → legalOp → tid ≠ 3 → op ≠ 6 → 6 ≤ reg.toNat →
      decode (.command w) = .error (.illegalRegister w)) ∧
    (rsv = 0 → legalOp → tid ≠ 3 → (op = 6 ∨ reg.toNat ≤ 5) →
      ∃ i, decode (.command w) = .ok i ∧ i.encode = .command w) ∧
    (∀ (s : State) (f : BlockFault), decode (.command w) = .error f →
      serve (.command w) s =
        .next { s with faults := f :: s.faults, responses := .command (faultCode f) 0 :: s.responses })

/-- R43: a field a command ignores changes nothing the command does. For SNAP64 the model's record of the word (log 8) is the
one thing that differs. -/
def Obligations.IgnoredFieldsDoNothing : Prop :=
  ∀ (tid : BitVec 2) (reg reg' : BitVec 3) (d d' : Word) (size : AccessSize) (addr : Word) (s : State),
    tid ≠ 3 →
    (reg.toNat ≤ 5 → exec (.rd32 tid reg d) s = exec (.rd32 tid reg d') s) ∧
    (reg.toNat ≤ 5 → exec (.zero tid reg d) s = exec (.zero tid reg d') s) ∧
    exec (.busRead size addr d) s = exec (.busRead size addr d') s ∧
    ∃ a b, exec (.snap64 tid reg d) s = .next a ∧ exec (.snap64 tid reg' d') s = .next b ∧
      { a with cmdWord := b.cmdWord } = b

/-- R93: the fault codes, with code 0 for OK. No step returns one of 8 to 15: a step sends at most one response, and its code
is at most 7. -/
def Obligations.FaultCodes : Prop :=
  statusOk = 0 ∧
  (∀ w t r n a z,
    faultCode (.configError w) = 1 ∧ faultCode (.illegalCommand w) = 2 ∧ faultCode (.illegalRegister w) = 3 ∧
    faultCode (.busDecodeError a z) = 4 ∧ faultCode (.cntWriteFault t r) = 5 ∧ faultCode (.retryLimit t n) = 6 ∧
    faultCode (.abortedByReset w) = 7) ∧
  (∀ f, 1 ≤ (faultCode f).toNat ∧ (faultCode f).toNat ≤ 7) ∧
  ∀ s s' : State, step s = .next s' →
    s'.responses = s.responses ∨ ∃ a, s'.responses = a :: s.responses ∧ (responseStatus a).toNat ≤ 7

/-! ## The step -/

/-- A step answers the HOST's next request with the meaning of the instruction it decodes to (R7, R8, R48, R50; the list of turns
is the model's choice, log 1). The second clause is the model's choice throughout: `withFetchWord` (log 7) puts the request
of a word in the model's own frame (log 6) at the head of the stream, frees the port and drops a snapshot in progress, and
the very next step then runs its instruction. -/
def Obligations.StepRunsDecodedInstruction : Prop :=
  (∀ (s : State) (q : Request) (rest : List Request) (i : Instr),
    s.issues q rest → decode q = .ok i → step s = exec i (s.issued rest)) ∧
  (∀ (s : State) (nbits w : Nat) (i : Instr), decodeTableWord nbits w = some i →
    step (s.withFetchWord nbits w) = exec i { s with snap := { s.snap with phase := .idle } })

/-- A request the decoder rejects is answered with its fault, and nothing else of the block changes (R54, R92, R95). -/
def Obligations.StepAnswersIllegalWord : Prop :=
  ∀ (s : State) (w : DWord) (rest : List Request) (f : BlockFault),
    s.issues (.command w) rest → decode (.command w) = .error f →
    step s = .next { s.issued rest with
      faults := f :: s.faults, responses := .command (faultCode f) 0 :: s.responses }

/-- Every step of the machine answers a next state. R92, R97 and R98 make a fault a status after which the port is free; that
so no step stops is read from them (DEDUCED, log 20). That the turn of an agent that has no step passes, and so answers a
next state too, is the model's choice (log 2). -/
def Obligations.EveryStepAnswers : Prop :=
  ∀ s : State, ∃ s', step s = .next s'

/-- R24, R40, R50: while a SNAP64 is in progress the HOST issues nothing. That its turn then passes is the model's choice
(log 2). -/
def Obligations.BusyPortTakesNoRequest : Prop :=
  ∀ s : State, s.nextTurn = .host → s.snap.phase ≠ .idle → step s = .next s.takeTurn

/-! ## Register access (40_register_access.md) -/

/-- R58: RD32 of a legal operand completes, responds with the register zero-extended, and writes no state. -/
def Obligations.Rd32RespondsWithRegister : Prop :=
  ∀ (tid : BitVec 2) (reg : BitVec 3) (data : Word) (s : State) (t : TimerId) (r : RegName),
    timerOf tid = some t → regOf reg = some r →
    exec (.rd32 tid reg data) s =
      .next { s with responses := .command 0 ((s.readReg t r).zeroExtend 64) :: s.responses }

/-- R59: WR32 to a control or load register completes and writes all 32 bits, then the load follows. -/
def Obligations.Wr32WritesRegister : Prop :=
  ∀ (tid : BitVec 2) (reg : BitVec 3) (data : Word) (s : State) (t : TimerId) (r : RegName),
    timerOf tid = some t → regOf reg = some r → r ≠ .cnt0 → r ≠ .cnt1 →
    ∃ s', exec (.wr32 tid reg data) s = .next s' ∧ RegisterWritten s s' t r data (.command 0 0)

/-- R62, R63: SETB of a control or load register completes; bit `i` of the register becomes 1 where the mask has it and
passes through elsewhere. -/
def Obligations.SetbSetsMaskBits : Prop :=
  ∀ (tid : BitVec 2) (reg : BitVec 3) (mask : Word) (s : State) (t : TimerId) (r : RegName),
    timerOf tid = some t → regOf reg = some r → r ≠ .cnt0 → r ≠ .cnt1 →
    ∃ s' v, exec (.setb tid reg mask) s = .next s' ∧ RegisterWritten s s' t r v (.command 0 0) ∧
      ∀ i, v.getLsbD i = if mask.getLsbD i then true else (s.readReg t r).getLsbD i

/-- R62, R64: CLRB of a control or load register completes; bit `i` of the register becomes 0 where the mask has it and
passes through elsewhere. -/
def Obligations.ClrbClearsMaskBits : Prop :=
  ∀ (tid : BitVec 2) (reg : BitVec 3) (mask : Word) (s : State) (t : TimerId) (r : RegName),
    timerOf tid = some t → regOf reg = some r → r ≠ .cnt0 → r ≠ .cnt1 →
    ∃ s' v, exec (.clrb tid reg mask) s = .next s' ∧ RegisterWritten s s' t r v (.command 0 0) ∧
      ∀ i, v.getLsbD i = if mask.getLsbD i then false else (s.readReg t r).getLsbD i

/-- R65: ZERO of a control or load register completes and writes zero. -/
def Obligations.ZeroClearsRegister : Prop :=
  ∀ (tid : BitVec 2) (reg : BitVec 3) (data : Word) (s : State) (t : TimerId) (r : RegName),
    timerOf tid = some t → regOf reg = some r → r ≠ .cnt0 → r ≠ .cnt1 →
    ∃ s', exec (.zero tid reg data) s = .next s' ∧ RegisterWritten s s' t r 0 (.command 0 0)

/-- R15, R57: a write of a counter register through either port does what CNT_WRITE_POLICY says. -/
def Obligations.CounterWriteFollowsPolicy : Prop :=
  ∀ (tid : BitVec 2) (reg : BitVec 3) (data : Word) (s : State) (t : TimerId) (r : RegName),
    timerOf tid = some t → regOf reg = some r → (r = .cnt0 ∨ r = .cnt1) →
    (∀ i ∈ [Instr.wr32 tid reg data, .setb tid reg data, .clrb tid reg data, .zero tid reg data],
      (s.params.cntWritePolicy = .ignore →
        exec i s = .next { s with responses := .command 0 0 :: s.responses }) ∧
      (s.params.cntWritePolicy = .fault →
        exec i s = .next { s with
          faults := .cntWriteFault t r :: s.faults, responses := .command 5 0 :: s.responses })) ∧
    (s.params.legal →
      let write := Instr.busWrite .word (s.params.base.get t + BitVec.ofNat 32 (s.params.offsets.get r)) data
      (s.params.cntWritePolicy = .ignore →
        exec write s = .next { s with responses := .mmio false 0 0 :: s.responses }) ∧
      (s.params.cntWritePolicy = .fault →
        exec write s = .next { s with
          faults := .cntWriteFault t r :: s.faults, responses := .mmio true 5 0 :: s.responses }))

/-- An instruction term whose `tid` names no timer or whose `reg` names no register raises, when executed, the fault R44, R45 and
R94 give its word, CONFIG_ERROR first, with the word in the fault mark, and changes nothing else. SNAP64 checks `tid` only.
R48 and R58 put these checks in the decoder (DecoderCheckOrder states them there), which never yields such a term: that
executing one raises the decoder's fault is the model's reading (DEDUCED, log 15). -/
def Obligations.IllegalOperandsRaiseFaults : Prop :=
  ∀ (tid : BitVec 2) (reg : BitVec 3) (data : Word) (s : State),
    ∀ i ∈ [Instr.rd32 tid reg data, .wr32 tid reg data, .setb tid reg data, .clrb tid reg data,
        .zero tid reg data, .snap64 tid reg data],
      (tid = 3 → exec i s = .next { s with
        faults := .configError i.word :: s.faults, responses := .command 1 0 :: s.responses }) ∧
      (tid ≠ 3 → 6 ≤ reg.toNat → i ≠ .snap64 tid reg data → exec i s = .next { s with
        faults := .illegalRegister i.word :: s.faults, responses := .command 3 0 :: s.responses })

/-- R30, R56: with legal parameters an access decodes to register `(t, r)` exactly when it has size 4 and the address
`BASE[t] + OFF_r`; every other access decodes to BUS_DECODE_ERROR with its address and size. The offsets R9 decides are those
of R30 and of R45's formula, which makes 0x0C and 0x1C holes. -/
def Obligations.AddressDecoderExact : Prop :=
  (∀ (p : Params) (addr : Word) (size : AccessSize), p.legal →
    (∀ t r, decodeAddr p addr size = .ok (t, r) ↔
      size = .word ∧ addr = p.base.get t + BitVec.ofNat 32 (p.offsets.get r)) ∧
    (∀ f, decodeAddr p addr size = .error f → f = .busDecodeError addr size)) ∧
  (∀ r, Config.offsets.get r = r.offset ∧ Config.offsets.get r =
    match r with
    | .ctrl0 => 0x00 | .load0 => 0x04 | .cnt0 => 0x08 | .ctrl1 => 0x10 | .load1 => 0x14 | .cnt1 => 0x18)

/-- R60: a BUS_READ at a register's address completes, answers the register, and writes no state. -/
def Obligations.BusReadAnswersRegister : Prop :=
  ∀ (s : State) (t : TimerId) (r : RegName) (wdata : Word), s.params.legal →
    exec (.busRead .word (s.params.base.get t + BitVec.ofNat 32 (s.params.offsets.get r)) wdata) s =
      .next { s with responses := .mmio false 0 (s.readReg t r) :: s.responses }

/-- R61: a BUS_WRITE at a control or load register's address completes and writes all 32 bits, then the load follows. -/
def Obligations.BusWriteWritesRegister : Prop :=
  ∀ (s : State) (t : TimerId) (r : RegName) (wdata : Word), s.params.legal → r ≠ .cnt0 → r ≠ .cnt1 →
    ∃ s', exec (.busWrite .word (s.params.base.get t + BitVec.ofNat 32 (s.params.offsets.get r)) wdata) s = .next s' ∧
      RegisterWritten s s' t r wdata (.mmio false 0 0)

/-- R30, R54, R60, R61: an MMIO access of another size, or at an address that is no register's, raises BUS_DECODE_ERROR, answers
`err = 1` and `rdata = 0`, and changes nothing else. -/
def Obligations.BusFaultChangesNothing : Prop :=
  ∀ (s : State) (size : AccessSize) (addr wdata : Word), s.params.legal →
    (size ≠ .word ∨ ∀ t (r : RegName), addr ≠ s.params.base.get t + BitVec.ofNat 32 (s.params.offsets.get r)) →
    let s' := { s with
      faults := .busDecodeError addr size :: s.faults, responses := .mmio true 4 0 :: s.responses }
    exec (.busRead size addr wdata) s = .next s' ∧ exec (.busWrite size addr wdata) s = .next s'

/-- The frame of BUS_WRITE over the address space: the address stored to is the one the decoder maps, and every other address
reads as before, but for the counter of a half whose LOAD bit is set after the write (R12, R66). -/
def Obligations.BusWriteFrame : Prop :=
  ∀ (s s' : State) (size : AccessSize) (addr wdata : Word) (t : TimerId) (r : RegName), s.params.legal →
    decodeAddr s.params addr size = .ok (t, r) → exec (.busWrite size addr wdata) s = .next s' →
    s'.shadow = s.shadow ∧ s'.snap = s.snap ∧ s'.params = s.params ∧
    (∀ a, a ≠ addr →
      (a = regAddr s.params t .cnt0 → s.bits.isLoad (s'.timer t).ctrl0 = false) →
      (a = regAddr s.params t .cnt1 → s.bits.isLoad (s'.timer t).ctrl1 = false) →
      s'.wordAt a = s.wordAt a) ∧
    (r ≠ .cnt0 → r ≠ .cnt1 → s'.wordAt addr = some wdata)

/-- R35: a read of any register, by either port and in every form, has no side effect on the block; and SNAP64 reads no
register and writes none when it is accepted (R72, R82). Every address reads as before. -/
def Obligations.ReadsHaveNoSideEffect : Prop :=
  ∀ (tid : BitVec 2) (reg : BitVec 3) (data addr : Word) (size : AccessSize) (s s' : State),
    (∀ i ∈ [Instr.rd32 tid reg data, .busRead size addr data], exec i s = .next s' →
      s' = { s with faults := s'.faults, responses := s'.responses } ∧ ∀ a, s'.wordAt a = s.wordAt a) ∧
    (exec (.snap64 tid reg data) s = .next s' →
      s'.timers = s.timers ∧ s'.shadow = s.shadow ∧ ∀ a, s'.wordAt a = s.wordAt a)

/-- R57: the two ports share their helpers, so a write of a register by address has the effect of WR32 on it, the fault of a
counter write included, and a read by address answers what RD32 answers. Only the form of the response differs. -/
def Obligations.PortsAgree : Prop :=
  ∀ (s : State) (t : TimerId) (r : RegName) (v : Word), s.params.legal →
    let addr := s.params.base.get t + BitVec.ofNat 32 (s.params.offsets.get r)
    (∃ a b, exec (.wr32 t.bits r.bits v) s = .next a ∧ exec (.busWrite .word addr v) s = .next b ∧
      { a with responses := s.responses } = { b with responses := s.responses }) ∧
    (∃ d, exec (.rd32 t.bits r.bits v) s =
        .next { s with responses := .command 0 (d.zeroExtend 64) :: s.responses } ∧
      exec (.busRead .word addr v) s = .next { s with responses := .mmio false 0 d :: s.responses })

/-! ## Invariants of every step -/

/-- R66, R29, R10, R39: every step keeps the load invariant, the legal parameters and, in the model's record of the command word
(log 8), that an idle port keeps no command. A power cycle is no step (R7), and its draws are under no law (R106): a drawn state
need not meet the invariant (log 28). -/
def Obligations.StepKeepsInvariant : Prop :=
  ∀ s s' : State, s.Inv → step s = .next s' → s'.Inv

/-- The invariant holds after reset. That the reset state's free bases are legal is the model's choice (log 4), and so is the
value 0 of the command word the idle FSM keeps there (log 8), which R107 does not give. -/
def Obligations.InvariantHoldsAtReset : Prop := State.reset.Inv

/-- R26, R96, R108: no step removes a fault from the mark or changes the parameters, RST included. A step adds at most one fault,
and a fault comes with exactly one response, which carries its code. A power cycle is no step; that the mark and the
parameters outlive one is the model's choice (log 9), stated in PowerCycleDrawsRegisters. -/
def Obligations.FaultMarkOnlyGrows : Prop :=
  ∀ s s' : State, step s = .next s' →
    s'.params = s.params ∧
    (s'.faults = s.faults ∨
      ∃ f p, s'.faults = f :: s.faults ∧ s'.responses = faultResponse p (faultCode f) :: s.responses)

/-- R95: a fault changes no register, no shadow latch and no FSM state; RETRY_LIMIT returns the FSM to IDLE, and
ABORTED_BY_RESET is the effect of reset itself. Faulting commands return `data = 0` and faulting MMIO reads `rdata = 0`. -/
def Obligations.FaultHasNoPartialEffect : Prop :=
  ∀ (s s' : State) (f : BlockFault), step s = .next s' → s'.faults = f :: s.faults →
    (s'.responses = .command (faultCode f) 0 :: s.responses ∨
      s'.responses = .mmio true (faultCode f) 0 :: s.responses) ∧
    match f with
    | .abortedByReset _ => s.nextTurn = .rst ∧ s'.snap.phase = .idle
    | .retryLimit _ _ =>
      s'.timers = s.timers ∧ s'.shadow = s.shadow ∧ s'.snap = { s.snap with phase := .idle }
    | .configError _ => s'.timers = s.timers ∧ s'.shadow = s.shadow ∧ s'.snap = s.snap
    | .illegalCommand _ => s'.timers = s.timers ∧ s'.shadow = s.shadow ∧ s'.snap = s.snap
    | .illegalRegister _ => s'.timers = s.timers ∧ s'.shadow = s.shadow ∧ s'.snap = s.snap
    | .busDecodeError _ _ => s'.timers = s.timers ∧ s'.shadow = s.shadow ∧ s'.snap = s.snap
    | .cntWriteFault _ _ => s'.timers = s.timers ∧ s'.shadow = s.shadow ∧ s'.snap = s.snap

/-- Who may change what: the SNAP agent changes no register of a timer; TICK changes counters only; a step of the HOST changes a
counter only by the load of a half whose LOAD bit is set afterwards (R15, R67, R82). -/
def Obligations.CountersAreOwnedByHardware : Prop :=
  ∀ (s s' : State) (t : TimerId), step s = .next s' →
    (s.nextTurn = .snap → s'.timers = s.timers) ∧
    (s.nextTurn = .tick → ∀ r, r ≠ .cnt0 → r ≠ .cnt1 → s'.readReg t r = s.readReg t r) ∧
    (s.nextTurn = .host →
      ((s'.timer t).cnt0 = (s.timer t).cnt0 ∨
        (s.bits.isLoad (s'.timer t).ctrl0 = true ∧ (s'.timer t).cnt0 = (s'.timer t).load0)) ∧
      ((s'.timer t).cnt1 = (s.timer t).cnt1 ∨
        (s.bits.isLoad (s'.timer t).ctrl1 = true ∧ (s'.timer t).cnt1 = (s'.timer t).load1)))

/-- R22: only an accepting SNAP64 step writes a shadow latch, apart from reset, and it writes the latch of the timer being read. -/
def Obligations.ShadowWrittenOnlyByAccept : Prop :=
  ∀ (s s' : State) (t : TimerId), step s = .next s' → s.nextTurn ≠ .rst →
    s'.shadow.get t = s.shadow.get t ∨
    (s.nextTurn = .snap ∧ s.snap.phase = .cmp ∧ s.snap.hi1 = s.snap.hi2 ∧ t = s.snap.tid ∧
      s'.shadow.get t = s.snap.hi1 ++ s.snap.lo ∧
      s'.responses = .command 0 (s'.shadow.get t) :: s.responses)

/-! ## Counting (41_control_encoder.md) -/

/-- R67: a TICK step advances all three timers at once and changes no control register, no load register and no snapshot
state. -/
def Obligations.TickAdvancesAllTimers : Prop :=
  ∀ s : State, s.nextTurn = .tick →
    step s = .next { s.takeTurn with
      timers := ⟨s.timers.t0.tick s.bits, s.timers.t1.tick s.bits, s.timers.t2.tick s.bits⟩ } ∧
    ∀ T : TimerRegs, T.tick s.bits = { T with cnt0 := (T.tick s.bits).cnt0, cnt1 := (T.tick s.bits).cnt1 }

/-- R68: the tick of a timer in cascade mode, over the bits at their positions (R9); and of CTRL1 only LOAD is read. -/
def Obligations.CascadeTickRule : Prop :=
  ∀ (b : BitPositions) (T : TimerRegs), T.ctrl0.getLsbD b.casc = true →
    let load0 := T.ctrl0.getLsbD b.load
    let en := T.ctrl0.getLsbD b.ent
    let down := T.ctrl0.getLsbD b.udt
    (T.tick b).cnt0 =
      (if load0 then T.load0 else if en && !down then T.cnt0 + 1 else if en && down then T.cnt0 - 1 else T.cnt0) ∧
    (T.tick b).cnt1 =
      (if T.ctrl1.getLsbD b.load then T.load1
       else if !load0 && en && !down && (T.cnt0 == 0xFFFF_FFFF) then T.cnt1 + 1
       else if !load0 && en && down && (T.cnt0 == 0) then T.cnt1 - 1
       else T.cnt1) ∧
    ∀ c : Word, c.getLsbD b.load = T.ctrl1.getLsbD b.load →
      ({ T with ctrl1 := c }.tick b).cnt0 = (T.tick b).cnt0 ∧ ({ T with ctrl1 := c }.tick b).cnt1 = (T.tick b).cnt1

/-- R69: the tick of a timer in independent mode; no carry passes between the halves. -/
def Obligations.IndependentTickRule : Prop :=
  ∀ (b : BitPositions) (T : TimerRegs), T.ctrl0.getLsbD b.casc = false →
    let half := fun (c load v : Word) =>
      if c.getLsbD b.load then load else if c.getLsbD b.ent then (if c.getLsbD b.udt then v - 1 else v + 1) else v
    (T.tick b).cnt0 = half T.ctrl0 T.load0 T.cnt0 ∧ (T.tick b).cnt1 = half T.ctrl1 T.load1 T.cnt1

/-- R70 (which the spec marks as derived from R68): the laws of a cascade-mode tick on the 64-bit counter, `k` ticks from zero, and CNT1 changing only where CNT0
wraps. -/
def Obligations.CascadeCounterLaws : Prop :=
  ∀ (b : BitPositions) (T : TimerRegs),
    b.isCascade T.ctrl0 = true → b.isLoad T.ctrl0 = false → b.isLoad T.ctrl1 = false →
    (b.isEnabled T.ctrl0 = true → b.isDown T.ctrl0 = false → (T.tick b).counter = T.counter + 1) ∧
    (b.isEnabled T.ctrl0 = true → b.isDown T.ctrl0 = true → (T.tick b).counter = T.counter - 1) ∧
    (b.isEnabled T.ctrl0 = false → (T.tick b).counter = T.counter) ∧
    ((T.tick b).cnt1 ≠ T.cnt1 →
      b.isEnabled T.ctrl0 = true ∧ T.cnt0 = (if b.isDown T.ctrl0 then 0 else 0xFFFF_FFFF)) ∧
    (b.isEnabled T.ctrl0 = true → b.isDown T.ctrl0 = false → T.counter = 0 →
      ∀ k, (T.ticks b k).counter = BitVec.ofNat 64 k) ∧
    (b.isEnabled T.ctrl0 = true → b.isDown T.ctrl0 = false → T.counter = 0xFFFF_FFFF_FFFF_FFFF →
      (T.tick b).counter = 0)

/-- R71 (which the spec marks as derived from R63, R64 and R66): SETB and CLRB of the enable bit, and of any mask that leaves LOAD clear in both control registers, change no counter;
start of a running timer and stop of a stopped one change no register. The load invariant is a premise of the enable-bit
clauses, since every step keeps it, and so are legal bit positions (R10). -/
def Obligations.EncoderLeavesCounters : Prop :=
  ∀ (tid : BitVec 2) (t : TimerId) (s : State), timerOf tid = some t → legalBits s.bits →
    (s.LoadInv → ∀ i ∈ [Instr.setb tid 0 s.bits.maskEnt, .clrb tid 0 s.bits.maskEnt], ∃ s', exec i s = .next s' ∧
      (s'.timer t).cnt0 = (s.timer t).cnt0 ∧ (s'.timer t).cnt1 = (s.timer t).cnt1) ∧
    (∀ (reg : BitVec 3) (r : RegName) (mask : Word), regOf reg = some r →
      ∀ i ∈ [Instr.setb tid reg mask, .clrb tid reg mask], ∃ s', exec i s = .next s' ∧
        (s.bits.isLoad (s'.timer t).ctrl0 = false → s.bits.isLoad (s'.timer t).ctrl1 = false →
          (s'.timer t).cnt0 = (s.timer t).cnt0 ∧ (s'.timer t).cnt1 = (s.timer t).cnt1)) ∧
    (s.LoadInv → s.bits.isEnabled (s.timer t).ctrl0 = true →
      ∃ s', exec (.setb tid 0 s.bits.maskEnt) s = .next s' ∧ s'.timers = s.timers) ∧
    (s.LoadInv → s.bits.isEnabled (s.timer t).ctrl0 = false →
      ∃ s', exec (.clrb tid 0 s.bits.maskEnt) s = .next s' ∧ s'.timers = s.timers)

/-! ## The snapshot unit (42_counter_reader.md) -/

/-- R72: SNAP64 of a timer completes its accepting step: the FSM goes to RD_HI1 for that timer with no retries, the port is
busy, and no response goes out. The word kept for R93 is the model's record (log 8). -/
def Obligations.Snap64StartsFsm : Prop :=
  ∀ (tid : BitVec 2) (reg : BitVec 3) (data : Word) (s : State) (t : TimerId), timerOf tid = some t →
    ∃ s', exec (.snap64 tid reg data) s = .next s' ∧
      s' = { s with
        snap := { s.snap with tid := t, retries := 0, phase := .rdHi1 }
        cmdWord := (Instr.snap64 tid reg data).word } ∧
      s'.busy = true

/-- R73, R74, R75: the three reading steps of the FSM, each one register of the timer being read. -/
def Obligations.SnapReadingSteps : Prop :=
  ∀ s : State, s.nextTurn = .snap →
    (s.snap.phase = .rdHi1 → step s = .next { s.takeTurn with
      snap := { s.snap with hi1 := (s.timers.get s.snap.tid).cnt1, phase := .rdLo } }) ∧
    (s.snap.phase = .rdLo → step s = .next { s.takeTurn with
      snap := { s.snap with lo := (s.timers.get s.snap.tid).cnt0, phase := .rdHi2 } }) ∧
    (s.snap.phase = .rdHi2 → step s = .next { s.takeTurn with
      snap := { s.snap with hi2 := (s.timers.get s.snap.tid).cnt1, phase := .cmp } })

/-- R76: with equal upper readings CMP latches the first with the lower one, responds with the latch, and is done. -/
def Obligations.CmpAcceptsEqualReadings : Prop :=
  ∀ s : State, s.nextTurn = .snap → s.snap.phase = .cmp → s.snap.hi1 = s.snap.hi2 →
    ∃ s', step s = .next s' ∧ s'.snap = { s.snap with phase := .idle } ∧ s'.busy = false ∧
      s'.timers = s.timers ∧ s'.faults = s.faults ∧
      (∀ t, s'.shadow.get t =
        if t = s.snap.tid then s.snap.hi1.zeroExtend 64 <<< 32 ||| s.snap.lo.zeroExtend 64 else s.shadow.get t) ∧
      s'.responses = .command 0 (s'.shadow.get s.snap.tid) :: s.responses

/-- R77: with unequal upper readings CMP reads the whole triple again, or at the cap raises RETRY_LIMIT and is done. -/
def Obligations.CmpRetriesUnequalReadings : Prop :=
  ∀ s : State, s.nextTurn = .snap → s.snap.phase = .cmp → s.snap.hi1 ≠ s.snap.hi2 →
    (s.params.maxRetries = some s.snap.retries → ∃ s', step s = .next s' ∧
      s'.snap = { s.snap with phase := .idle } ∧ s'.timers = s.timers ∧ s'.shadow = s.shadow ∧
      s'.faults = .retryLimit s.snap.tid s.snap.retries :: s.faults ∧
      s'.responses = .command 6 0 :: s.responses) ∧
    (s.params.maxRetries ≠ some s.snap.retries → step s = .next { s.takeTurn with
      snap := { s.snap with retries := s.snap.retries + 1, phase := .rdHi1 } })

/-- R78: the FSM's transitions, in full. A step that changes the FSM's phase takes one of these edges. -/
def Obligations.FsmTransitions : Prop :=
  ∀ s s' : State, step s = .next s' → s'.snap.phase ≠ s.snap.phase →
    (s.snap.phase = .idle ∧ s'.snap.phase = .rdHi1 ∧ s.nextTurn = .host ∧
      ∃ tid reg data rest, s.pending = (Instr.snap64 tid reg data).encode :: rest ∧ tid ≠ 3) ∨
    (s.nextTurn = .snap ∧
      ((s.snap.phase = .rdHi1 ∧ s'.snap.phase = .rdLo) ∨ (s.snap.phase = .rdLo ∧ s'.snap.phase = .rdHi2) ∨
       (s.snap.phase = .rdHi2 ∧ s'.snap.phase = .cmp) ∨
       (s.snap.phase = .cmp ∧ s.snap.hi1 = s.snap.hi2 ∧ s'.snap.phase = .idle ∧
         ∃ v, s'.responses = .command 0 v :: s.responses) ∨
       (s.snap.phase = .cmp ∧ s.snap.hi1 ≠ s.snap.hi2 ∧ s.params.maxRetries ≠ some s.snap.retries ∧
         s'.snap.phase = .rdHi1 ∧ s'.responses = s.responses) ∨
       (s.snap.phase = .cmp ∧ s.snap.hi1 ≠ s.snap.hi2 ∧ s.params.maxRetries = some s.snap.retries ∧
         s'.snap.phase = .idle ∧ s'.responses = .command 6 0 :: s.responses))) ∨
    (s.nextTurn = .rst ∧ s'.snap.phase = .idle ∧ s'.responses = .command 7 0 :: s.responses)

/-- R79 (which the spec marks as derived from R68, R69, R73 to R76 and R50): the consistency of a snapshot. Over one triple, with any ticks in its gaps and fewer than 2^32 changes of CNT1 between
the two upper reads, the FSM accepts exactly when CNT1 did not change, and what it accepts is the counter as it stood at the
RD_LO read. In both modes, from every state. -/
def Obligations.SnapshotIsConsistent : Prop :=
  ∀ (s : State) (a b c : Nat) (rest : List Turn), s.snap.phase = .rdHi1 → s.turns = tripleTurns a b c ++ rest →
    (s.timer s.snap.tid).cnt1Changes s.bits (a + b) < 2 ^ 32 →
    ∃ s', run (a + b + c + 4) s = .next s' ∧ s'.turns = rest ∧
      (((s.timer s.snap.tid).cnt1Changes s.bits (a + b) = 0 ∧ s'.snap.phase = .idle ∧
          s'.shadow.get s.snap.tid = ((s.timer s.snap.tid).ticks s.bits a).counter ∧
          s'.responses = .command 0 ((s.timer s.snap.tid).ticks s.bits a).counter :: s.responses) ∨
       ((s.timer s.snap.tid).cnt1Changes s.bits (a + b) ≠ 0 ∧ s'.shadow = s.shadow ∧
          (s'.responses = s.responses ∨ s'.responses = .command 6 0 :: s.responses)))

/-- R80: the premise of R79 cannot be dropped. In some run CNT1 changes 2^32 times inside a triple and the FSM accepts a value
the counter held at no instant of the triple. -/
def Obligations.AliasedSnapshotIsAccepted : Prop :=
  ∃ (s s' : State) (a b c : Nat) (v : DWord), s.snap.phase = .rdHi1 ∧ s.turns = tripleTurns a b c ∧
    (s.timer s.snap.tid).cnt1Changes s.bits (a + b) = 2 ^ 32 ∧
    run (a + b + c + 4) s = .next s' ∧
    s'.responses = .command 0 v :: s.responses ∧
    ∀ k ≤ a + b + c, v ≠ ((s.timer s.snap.tid).ticks s.bits k).counter

/-- From R77 and R81: under SNAP_GAP(G) with 6G < 2^32 a cascade-mode SNAP64 accepts within two triples, so with at most one retry.
`g0` ticks fall before RD_HI1, `a b c` and `a' b' c'` in the triples and `d` between them. R81's sentence has no premise on
the cap; here a cap of zero retries is shut out, since R77 then allows no second triple. -/
def Obligations.SnapshotEndsWithinTwoTriples : Prop :=
  ∀ (s : State) (G g0 a b c d a' b' c' : Nat) (rest : List Turn),
    6 * G < 2 ^ 32 → (∀ g ∈ [g0, a, b, c, d, a', b', c'], g ≤ G) →
    s.snap.phase = .rdHi1 → s.snap.retries = 0 → s.params.maxRetries ≠ some 0 →
    s.bits.isCascade (s.timer s.snap.tid).ctrl0 = true →
    s.turns = tickTurns g0 ++ (tripleTurns a b c ++ (tickTurns d ++ (tripleTurns a' b' c' ++ rest))) →
    ∃ (k : Nat) (s' : State) (v : DWord),
      (k = g0 + (a + b + c + 4) ∨ k = g0 + (a + b + c + 4) + d + (a' + b' + c' + 4)) ∧
      run k s = .next s' ∧ s'.snap.phase = .idle ∧ s'.snap.retries ≤ 1 ∧
      s'.responses = .command 0 v :: s.responses

/-- R78, R115: the run that never ends is kept. In independent mode with CTRL1 counting, and one tick in every gap, no number of
triples ends a SNAP64 or gets it a response. -/
def Obligations.SnapshotMayNeverEnd : Prop :=
  ∀ (s : State) (n : Nat), s.snap.phase = .rdHi1 → s.params.maxRetries = none →
    s.bits.isCascade (s.timer s.snap.tid).ctrl0 = false → s.bits.isEnabled (s.timer s.snap.tid).ctrl1 = true →
    s.bits.isLoad (s.timer s.snap.tid).ctrl1 = false → s.turns = busyTriples n →
    ∃ s', run (8 * n) s = .next s' ∧ s'.snap.phase = .rdHi1 ∧
      s'.responses = s.responses ∧ s'.snap.retries = s.snap.retries + n

/-- R113: the torn read. In some run of the machine that keeps its invariant, two RD32, of CNT1 and then of CNT0, with ticks
between them, answer a pair the counter held at no instant from the first read to the second; and so do two BUS_READ. -/
def Obligations.TornReadExists : Prop :=
  let torn (read : State → RegName → Instr) (answer : Word → Response) : Prop :=
    ∃ (s s' : State) (n : Nat) (hi lo : Word),
      s.Inv ∧ s.busy = false ∧ s.pending = [(read s .cnt1).encode, (read s .cnt0).encode] ∧
      s.turns = .host :: (tickTurns n ++ [.host]) ∧ run (n + 2) s = .next s' ∧ s'.faults = s.faults ∧
      s'.responses = answer lo :: answer hi :: s.responses ∧
      ∀ k ≤ n, hi ++ lo ≠ ((s.timer .t0).ticks s.bits k).counter
  torn (fun _ r => .rd32 TimerId.t0.bits r.bits 0) (fun v => .command 0 (v.zeroExtend 64)) ∧
  torn (fun s r => .busRead .word (regAddr s.params .t0 r) 0) (fun v => .mmio false 0 v)

/-! ## Reset and power (70_reset_and_hazards.md) -/

/-- R107, R108: RST sets every register, latch and FSM field in one step, answers a SNAP64 in progress with ABORTED_BY_RESET,
and changes neither the parameters nor the fault mark but for that one fault. -/
def Obligations.RstResetsEverything : Prop :=
  ∀ s : State, s.nextTurn = .rst → ∃ s', step s = .next s' ∧
    (∀ t r, s'.readReg t r = 0) ∧ (∀ t, s'.shadow.get t = 0) ∧
    s'.snap = ⟨.idle, .t0, 0, 0, 0, 0⟩ ∧ s'.params = s.params ∧
    (s.snap.phase = .idle → s'.faults = s.faults ∧ s'.responses = s.responses) ∧
    (s.snap.phase ≠ .idle → (∃ w, s'.faults = .abortedByReset w :: s.faults) ∧
      s'.responses = .command 7 0 :: s.responses)

/-- R93: the fault mark records the command word with ABORTED_BY_RESET. The block keeps the word of the SNAP64 in progress in the
model's `cmdWord` (log 8): the accepting step puts it there, a step that does not end the command keeps it, and RST records
it. -/
def Obligations.AbortRecordsCommandWord : Prop :=
  (∀ (tid : BitVec 2) (reg : BitVec 3) (data : Word) (s s' : State), tid ≠ 3 →
    exec (.snap64 tid reg data) s = .next s' → s'.cmdWord = packCmd 6 tid reg data) ∧
  (∀ s s' : State, step s = .next s' → s.snap.phase ≠ .idle → s'.snap.phase ≠ .idle →
    s'.cmdWord = s.cmdWord) ∧
  (∀ s : State, s.nextTurn = .rst → s.snap.phase ≠ .idle →
    ∃ s', step s = .next s' ∧ s'.faults = .abortedByReset s.cmdWord :: s.faults)

/-- The reset state is the state RST leaves: State.reset agrees with R107 in every register, latch and FSM field. -/
def Obligations.ResetStateIsRstState : Prop :=
  ∀ s s' : State, s.nextTurn = .rst → step s = .next s' →
    s'.timers = State.reset.timers ∧ s'.shadow = State.reset.shadow ∧ s'.snap = State.reset.snap

/-- R106, R109: at a power cycle every register, latch and FSM field is a draw, read at the draw counter, which then moves on by
one, so that two power cycles in a row read different draws. That the parameters, the fault mark, the HOST's stream and its
responses stay is the model's choice (log 9), and so is that the draw of snap.tid is one of the three timers (log 27). -/
def Obligations.PowerCycleDrawsRegisters : Prop :=
  ∀ s : State, ∃ s', s.event .powerCycle = .next s' ∧
    (∀ t r, s'.readReg t r = Config.freeReg s.draws t r) ∧
    (∀ t, s'.shadow.get t = Config.freeShadow s.draws t) ∧
    s'.snap.phase = Config.freePhase s.draws ∧ s'.snap.tid = Config.freeTid s.draws ∧
    s'.snap.hi1 = Config.freeReading s.draws .hi1 ∧ s'.snap.lo = Config.freeReading s.draws .lo ∧
    s'.snap.hi2 = Config.freeReading s.draws .hi2 ∧ s'.snap.retries = Config.freeRetries s.draws ∧
    s'.draws = s.draws + 1 ∧
    s'.params = s.params ∧ s'.faults = s.faults ∧ s'.pending = s.pending ∧ s'.responses = s.responses

/-! ## Host sequences (43_host_sequences.md) -/

/-- R84: INIT, from any state with a free port, with any ticks between its commands, leaves the timer stopped at zero in cascade
mode and returns OK, raising no fault; the HOST then holds the timer Stopped (R83). For `t = 3` the first command returns
CONFIG_ERROR before any write. -/
def Obligations.InitLeavesTimerZeroed : Prop :=
  (∀ (s : State) (l : PerTimer Lifecycle) (t : TimerId) (turns : List Turn),
    s.busy = false → legalBits s.bits → hostTicks 13 turns →
    let h := (s.session l (.init t.bits)).run turns
    h.prog = .done .ok ∧ h.machine.faults = s.faults ∧ h.lifecycle = l.set t .stopped ∧
      h.machine.timer t =
        { ctrl0 := s.bits.maskCasc, load0 := 0, cnt0 := 0, ctrl1 := 0, load1 := 0, cnt1 := 0 }) ∧
  (∀ (s : State) (l : PerTimer Lifecycle), s.busy = false →
    let h := (s.session l (.init 3)).run [.host]
    h.prog = .done (.fault 1) ∧ h.machine.timers = s.timers ∧ h.lifecycle = l)

/-- R85: RESET, with any ticks between its commands, preserves every other control bit and leaves the counters at their load
values. A timer in independent mode with CTRL1 counting is the hazard of R114 and has its own statement. -/
def Obligations.ResetLeavesLoadValues : Prop :=
  ∀ (s : State) (l : PerTimer Lifecycle) (t : TimerId) (turns : List Turn),
    s.busy = false → legalBits s.bits → hostTicks 6 turns →
    (s.bits.isCascade (s.timer t).ctrl0 = true ∨ s.bits.isEnabled (s.timer t).ctrl1 = false) →
    let h := (s.session l (.reset t.bits)).run turns
    h.prog = .done .ok ∧ h.machine.faults = s.faults ∧ h.machine.timer t = (s.timer t).afterReset s.bits

/-- R114: the hazard of RESET from independent mode. With CTRL1 counting, CNT1 counts, in its direction, in every tick between CLRB
CTRL1 LOAD and SETB CTRL0 CASC. -/
def Obligations.ResetHazardFromIndependentMode : Prop :=
  ∀ (s : State) (l : PerTimer Lifecycle) (t : TimerId) (n : Nat), s.busy = false → legalBits s.bits →
    s.bits.isCascade (s.timer t).ctrl0 = false → s.bits.isEnabled (s.timer t).ctrl1 = true →
    let h := (s.session l (.reset t.bits)).run
      ([.host, .host, .host, .host, .host] ++ tickTurns n ++ [.host])
    h.prog = .done .ok ∧ (h.machine.timer t).cnt1 =
      if s.bits.isDown (s.timer t).ctrl1 then (s.timer t).load1 - BitVec.ofNat 32 n
      else (s.timer t).load1 + BitVec.ofNat 32 n

/-- R91: RESETALL returns OK, raises no fault and resets all three timers: each ends in R85's state, whatever ticks fall between
the commands, but for a timer that begins in the hazard of R114. -/
def Obligations.ResetAllReturnsOk : Prop :=
  ∀ (s : State) (l : PerTimer Lifecycle) (turns : List Turn),
    s.busy = false → legalBits s.bits → hostTicks 18 turns →
    let h := (s.session l .resetAll).run turns
    h.prog = .done .ok ∧ h.machine.faults = s.faults ∧
      ∀ t, (s.bits.isCascade (s.timer t).ctrl0 = true ∨ s.bits.isEnabled (s.timer t).ctrl1 = false) →
        h.machine.timer t = (s.timer t).afterReset s.bits

/-- R90: INITALL on the block as specified returns OK, raises no fault, leaves all three timers as INIT does, and the HOST then
holds all three Stopped. -/
def Obligations.InitAllLeavesTimersZeroed : Prop :=
  ∀ (s : State) (l : PerTimer Lifecycle) (turns : List Turn),
    s.busy = false → legalBits s.bits → hostTicks 39 turns →
    let h := (s.session l .initAll).run turns
    h.prog = .done .ok ∧ h.machine.faults = s.faults ∧ h.lifecycle = ⟨.stopped, .stopped, .stopped⟩ ∧
      ∀ t, h.machine.timer t =
        { ctrl0 := s.bits.maskCasc, load0 := 0, cnt0 := 0, ctrl1 := 0, load1 := 0, cnt1 := 0 }

/-- R83, R86, R87: the lifecycle states the HOST keeps. START makes a timer the HOST has initialized Running, STOP and RESET make
it Stopped; a timer it has not initialized stays Uninitialized (log 18), and the other two keep their states. Running and
Stopped are CTRL0.ENT on the block, and START and STOP change no other bit of it. -/
def Obligations.LifecycleFollowsCalls : Prop :=
  ∀ (s : State) (l : PerTimer Lifecycle) (t : TimerId) (turns : List Turn),
    s.busy = false → legalBits s.bits → hostTicks 6 turns →
    let kept (x : Lifecycle) : Lifecycle := if l.get t = .uninitialized then .uninitialized else x
    let started := (s.session l (.start t.bits)).run turns
    let stopped := (s.session l (.stop t.bits)).run turns
    let reset := (s.session l (.reset t.bits)).run turns
    started.prog = .done .ok ∧ started.lifecycle = l.set t (kept .running) ∧
    (started.machine.timer t).running s.bits = true ∧
    (started.machine.timer t).ctrl0 = (s.timer t).ctrl0 ||| s.bits.maskEnt ∧
    stopped.prog = .done .ok ∧ stopped.lifecycle = l.set t (kept .stopped) ∧
    (stopped.machine.timer t).running s.bits = false ∧
    (stopped.machine.timer t).ctrl0 = (s.timer t).ctrl0 &&& ~~~ s.bits.maskEnt ∧
    reset.lifecycle = l.set t (kept .stopped) ∧ (reset.machine.timer t).running s.bits = false

/-- R88: ELAPSED of a timer whose counter does not move in a tick, with any TICK, SNAP and idle HOST turns around its steps, returns
the duration of that counter at CLK_HZ, raises no fault, changes no register of the timer and no lifecycle state, and leaves
the count in the timer's latch. After INIT it returns 0 at any positive CLK_HZ, and for `t = 3` it returns CONFIG_ERROR. -/
def Obligations.ElapsedReturnsDuration : Prop :=
  let around (before after : List Turn) : Prop :=
    (∀ a ∈ before, a = .tick ∨ a = .snap) ∧ (∀ a ∈ after, a ≠ .rst) ∧ 4 ≤ after.count .snap
  (∀ (s : State) (l : PerTimer Lifecycle) (t : TimerId) (before after : List Turn),
    s.busy = false → (s.timer t).tick s.bits = s.timer t → around before after →
    let h := (s.session l (.elapsed t.bits)).run (before ++ .host :: after)
    h.prog = .done (.seconds (ticksToSeconds (s.timer t).counter s.params.clkHz)) ∧
      h.machine.faults = s.faults ∧ h.lifecycle = l ∧ h.machine.timer t = s.timer t ∧
      h.machine.shadow.get t = (s.timer t).counter) ∧
  (∀ (s : State) (l : PerTimer Lifecycle) (t : TimerId) (turns before after : List Turn),
    s.busy = false → legalBits s.bits → hostTicks 13 turns → around before after →
    0 < s.params.clkHz.toNat → s.params.clkHz.toNat ≤ 0x7FF0_0000_0000_0000 →
    let h := (((s.session l (.init t.bits)).run turns).next (.elapsed t.bits)).run (before ++ .host :: after)
    h.prog = .done (.seconds 0) ∧ h.machine.faults = s.faults ∧ h.lifecycle = l.set t .stopped) ∧
  (∀ (s : State) (l : PerTimer Lifecycle), s.busy = false →
    let h := (s.session l (.elapsed 3)).run [.host]
    h.prog = .done (.fault 1) ∧ h.machine.timers = s.timers ∧ h.lifecycle = l)

/-- R89: the examples of the Duration Converter. 100,000,000 ticks at 100,000,000 Hz are 1.0, 4,294,967,296 ticks the binary64
number nearest to 42.94967296, and a count of 2^53 + 1 rounds to 2^53 first (95_test_vectors.md H12). -/
def Obligations.DurationExamples : Prop :=
  let hz := 0x4197_D784_0000_0000#64
  ticksToSeconds 100000000 hz = 0x3FF0_0000_0000_0000 ∧
  ticksToSeconds 4294967296 hz = 0x4045_798E_E230_8C3A ∧
  ticksToSeconds 9007199254740993 hz = ticksToSeconds 9007199254740992 hz

/-- From R89, which reads the division as IEEE 754 (from general knowledge, G4): the frequencies for which the quotient is no
rounded ratio. Of either sign, zero gives an infinity, or a NaN for no ticks, and infinity gives zero; NaN gives a NaN. The
sign of the frequency is the sign of a quotient that is a number, and two opposite frequencies give opposite quotients. -/
def Obligations.DurationOfSpecialFrequencies : Prop :=
  let sign := 0x8000_0000_0000_0000#64
  let nan (v : BitVec 64) : Prop := v.extractLsb' 52 11 = 0x7FF ∧ v.extractLsb' 0 52 ≠ 0
  (∀ ticks : DWord, ticks ≠ 0 →
    ticksToSeconds ticks 0 = 0x7FF0_0000_0000_0000 ∧ ticksToSeconds ticks sign = 0xFFF0_0000_0000_0000) ∧
  nan (ticksToSeconds 0 0) ∧ nan (ticksToSeconds 0 sign) ∧
  (∀ ticks : DWord,
    ticksToSeconds ticks 0x7FF0_0000_0000_0000 = 0 ∧ ticksToSeconds ticks 0xFFF0_0000_0000_0000 = sign) ∧
  (∀ (ticks : DWord) (hz : BitVec 64), nan hz → nan (ticksToSeconds ticks hz)) ∧
  (∀ (ticks : DWord) (hz : BitVec 64), ¬ nan hz → ¬ (ticks = 0 ∧ hz &&& ~~~ sign = 0) →
    (ticksToSeconds ticks hz).getLsbD 63 = hz.getLsbD 63 ∧
    ticksToSeconds ticks (hz ^^^ sign) = ticksToSeconds ticks hz ^^^ sign)

/-- R33: byte `k` of a word in a little-endian host's memory is bits `8k+7:8k`, and the 64-bit counter is `CNT1` above `CNT0`
whatever the byte order. -/
def Obligations.ByteAndCounterOrder : Prop :=
  (∀ (w : Word) (k : Fin 4) (i : Nat), i < 8 → (hostByte .little w k).getLsbD i = w.getLsbD (8 * k.val + i)) ∧
  (∀ T : TimerRegs, T.counter = T.cnt1.zeroExtend 64 <<< 32 ||| T.cnt0.zeroExtend 64)
end

