-- ==== Sys2Proof/Laws/State.lean ====
section
/-! SUPPORT. One lemma per field per update of the state, true by rfl, and the laws of a per-timer table. -/

namespace Sys2Proof

@[simp] theorem PerTimer.get_set {α : Type} (p : PerTimer α) (t t' : TimerId) (a : α) :
    (p.set t a).get t' = if t' = t then a else p.get t' := by
  cases t <;> cases t' <;> rfl

@[simp] theorem PerTimer.get_map {α β : Type} (f : α → β) (p : PerTimer α) (t : TimerId) :
    (p.map f).get t = f (p.get t) := by
  cases t <;> rfl

theorem PerTimer.ext_get {α : Type} {p q : PerTimer α} (h : ∀ t, p.get t = q.get t) : p = q := by
  cases p
  cases q
  have h0 := h .t0
  have h1 := h .t1
  have h2 := h .t2
  simp only [PerTimer.get] at h0 h1 h2
  rw [h0, h1, h2]

namespace Machine

variable (s : State)

@[simp] theorem State.respond_timers (a : Response) : (s.respond a).timers = s.timers := rfl
@[simp] theorem State.respond_shadow (a : Response) : (s.respond a).shadow = s.shadow := rfl
@[simp] theorem State.respond_snap (a : Response) : (s.respond a).snap = s.snap := rfl
@[simp] theorem State.respond_cmdWord (a : Response) : (s.respond a).cmdWord = s.cmdWord := rfl
@[simp] theorem State.respond_faults (a : Response) : (s.respond a).faults = s.faults := rfl
@[simp] theorem State.respond_params (a : Response) : (s.respond a).params = s.params := rfl
@[simp] theorem State.respond_pending (a : Response) : (s.respond a).pending = s.pending := rfl
@[simp] theorem State.respond_responses (a : Response) : (s.respond a).responses = a :: s.responses := rfl
@[simp] theorem State.respond_turns (a : Response) : (s.respond a).turns = s.turns := rfl
@[simp] theorem State.respond_draws (a : Response) : (s.respond a).draws = s.draws := rfl

@[simp] theorem State.respondCommand_timers (v : DWord) : (s.respondCommand v).timers = s.timers := rfl
@[simp] theorem State.respondCommand_shadow (v : DWord) : (s.respondCommand v).shadow = s.shadow := rfl
@[simp] theorem State.respondCommand_snap (v : DWord) : (s.respondCommand v).snap = s.snap := rfl
@[simp] theorem State.respondCommand_cmdWord (v : DWord) : (s.respondCommand v).cmdWord = s.cmdWord := rfl
@[simp] theorem State.respondCommand_faults (v : DWord) : (s.respondCommand v).faults = s.faults := rfl
@[simp] theorem State.respondCommand_params (v : DWord) : (s.respondCommand v).params = s.params := rfl
@[simp] theorem State.respondCommand_pending (v : DWord) : (s.respondCommand v).pending = s.pending := rfl
@[simp] theorem State.respondCommand_responses (v : DWord) : (s.respondCommand v).responses = .command statusOk v :: s.responses := rfl
@[simp] theorem State.respondCommand_turns (v : DWord) : (s.respondCommand v).turns = s.turns := rfl
@[simp] theorem State.respondCommand_draws (v : DWord) : (s.respondCommand v).draws = s.draws := rfl

@[simp] theorem State.respondMmio_timers (v : Word) : (s.respondMmio v).timers = s.timers := rfl
@[simp] theorem State.respondMmio_shadow (v : Word) : (s.respondMmio v).shadow = s.shadow := rfl
@[simp] theorem State.respondMmio_snap (v : Word) : (s.respondMmio v).snap = s.snap := rfl
@[simp] theorem State.respondMmio_cmdWord (v : Word) : (s.respondMmio v).cmdWord = s.cmdWord := rfl
@[simp] theorem State.respondMmio_faults (v : Word) : (s.respondMmio v).faults = s.faults := rfl
@[simp] theorem State.respondMmio_params (v : Word) : (s.respondMmio v).params = s.params := rfl
@[simp] theorem State.respondMmio_pending (v : Word) : (s.respondMmio v).pending = s.pending := rfl
@[simp] theorem State.respondMmio_responses (v : Word) : (s.respondMmio v).responses = .mmio false statusOk v :: s.responses := rfl
@[simp] theorem State.respondMmio_turns (v : Word) : (s.respondMmio v).turns = s.turns := rfl
@[simp] theorem State.respondMmio_draws (v : Word) : (s.respondMmio v).draws = s.draws := rfl

@[simp] theorem State.raise_timers (p : Port) (f : BlockFault) : (s.raise p f).timers = s.timers := rfl
@[simp] theorem State.raise_shadow (p : Port) (f : BlockFault) : (s.raise p f).shadow = s.shadow := rfl
@[simp] theorem State.raise_snap (p : Port) (f : BlockFault) : (s.raise p f).snap = s.snap := rfl
@[simp] theorem State.raise_cmdWord (p : Port) (f : BlockFault) : (s.raise p f).cmdWord = s.cmdWord := rfl
@[simp] theorem State.raise_faults (p : Port) (f : BlockFault) : (s.raise p f).faults = f :: s.faults := rfl
@[simp] theorem State.raise_params (p : Port) (f : BlockFault) : (s.raise p f).params = s.params := rfl
@[simp] theorem State.raise_pending (p : Port) (f : BlockFault) : (s.raise p f).pending = s.pending := rfl
@[simp] theorem State.raise_responses (p : Port) (f : BlockFault) : (s.raise p f).responses = faultResponse p (faultCode f) :: s.responses := rfl
@[simp] theorem State.raise_turns (p : Port) (f : BlockFault) : (s.raise p f).turns = s.turns := rfl
@[simp] theorem State.raise_draws (p : Port) (f : BlockFault) : (s.raise p f).draws = s.draws := rfl

@[simp] theorem State.setTimer_timers (t : TimerId) (T : TimerRegs) : (s.setTimer t T).timers = s.timers.set t T := rfl
@[simp] theorem State.setTimer_shadow (t : TimerId) (T : TimerRegs) : (s.setTimer t T).shadow = s.shadow := rfl
@[simp] theorem State.setTimer_snap (t : TimerId) (T : TimerRegs) : (s.setTimer t T).snap = s.snap := rfl
@[simp] theorem State.setTimer_cmdWord (t : TimerId) (T : TimerRegs) : (s.setTimer t T).cmdWord = s.cmdWord := rfl
@[simp] theorem State.setTimer_faults (t : TimerId) (T : TimerRegs) : (s.setTimer t T).faults = s.faults := rfl
@[simp] theorem State.setTimer_params (t : TimerId) (T : TimerRegs) : (s.setTimer t T).params = s.params := rfl
@[simp] theorem State.setTimer_pending (t : TimerId) (T : TimerRegs) : (s.setTimer t T).pending = s.pending := rfl
@[simp] theorem State.setTimer_responses (t : TimerId) (T : TimerRegs) : (s.setTimer t T).responses = s.responses := rfl
@[simp] theorem State.setTimer_turns (t : TimerId) (T : TimerRegs) : (s.setTimer t T).turns = s.turns := rfl
@[simp] theorem State.setTimer_draws (t : TimerId) (T : TimerRegs) : (s.setTimer t T).draws = s.draws := rfl

@[simp] theorem State.tick_timers : (s.tick).timers = s.timers.map (·.tick s.bits) := rfl
@[simp] theorem State.tick_shadow : (s.tick).shadow = s.shadow := rfl
@[simp] theorem State.tick_snap : (s.tick).snap = s.snap := rfl
@[simp] theorem State.tick_cmdWord : (s.tick).cmdWord = s.cmdWord := rfl
@[simp] theorem State.tick_faults : (s.tick).faults = s.faults := rfl
@[simp] theorem State.tick_params : (s.tick).params = s.params := rfl
@[simp] theorem State.tick_pending : (s.tick).pending = s.pending := rfl
@[simp] theorem State.tick_responses : (s.tick).responses = s.responses := rfl
@[simp] theorem State.tick_turns : (s.tick).turns = s.turns := rfl
@[simp] theorem State.tick_draws : (s.tick).draws = s.draws := rfl

@[simp] theorem State.goto_timers (p : SnapPhase) : (s.goto p).timers = s.timers := rfl
@[simp] theorem State.goto_shadow (p : SnapPhase) : (s.goto p).shadow = s.shadow := rfl
@[simp] theorem State.goto_snap (p : SnapPhase) : (s.goto p).snap = { s.snap with phase := p } := rfl
@[simp] theorem State.goto_cmdWord (p : SnapPhase) : (s.goto p).cmdWord = s.cmdWord := rfl
@[simp] theorem State.goto_faults (p : SnapPhase) : (s.goto p).faults = s.faults := rfl
@[simp] theorem State.goto_params (p : SnapPhase) : (s.goto p).params = s.params := rfl
@[simp] theorem State.goto_pending (p : SnapPhase) : (s.goto p).pending = s.pending := rfl
@[simp] theorem State.goto_responses (p : SnapPhase) : (s.goto p).responses = s.responses := rfl
@[simp] theorem State.goto_turns (p : SnapPhase) : (s.goto p).turns = s.turns := rfl
@[simp] theorem State.goto_draws (p : SnapPhase) : (s.goto p).draws = s.draws := rfl

@[simp] theorem State.endSnapshot_timers : (s.endSnapshot).timers = s.timers := rfl
@[simp] theorem State.endSnapshot_shadow : (s.endSnapshot).shadow = s.shadow := rfl
@[simp] theorem State.endSnapshot_snap : (s.endSnapshot).snap = { s.snap with phase := .idle } := rfl
@[simp] theorem State.endSnapshot_cmdWord : (s.endSnapshot).cmdWord = 0 := rfl
@[simp] theorem State.endSnapshot_faults : (s.endSnapshot).faults = s.faults := rfl
@[simp] theorem State.endSnapshot_params : (s.endSnapshot).params = s.params := rfl
@[simp] theorem State.endSnapshot_pending : (s.endSnapshot).pending = s.pending := rfl
@[simp] theorem State.endSnapshot_responses : (s.endSnapshot).responses = s.responses := rfl
@[simp] theorem State.endSnapshot_turns : (s.endSnapshot).turns = s.turns := rfl
@[simp] theorem State.endSnapshot_draws : (s.endSnapshot).draws = s.draws := rfl

theorem State.bits_def : s.bits = s.params.bits := rfl
@[simp] theorem State.respond_bits (a : Response) : (s.respond a).bits = s.bits := rfl
@[simp] theorem State.raise_bits (p : Port) (f : BlockFault) : (s.raise p f).bits = s.bits := rfl
@[simp] theorem State.setTimer_bits (t : TimerId) (T : TimerRegs) : (s.setTimer t T).bits = s.bits := rfl
@[simp] theorem State.tick_bits : s.tick.bits = s.bits := rfl

theorem State.timer_def (t : TimerId) : s.timer t = s.timers.get t := rfl

@[simp] theorem State.respond_timer (a : Response) (t : TimerId) : (s.respond a).timer t = s.timer t := rfl
@[simp] theorem State.raise_timer (p : Port) (f : BlockFault) (t : TimerId) : (s.raise p f).timer t = s.timer t := rfl
@[simp] theorem State.setTimer_timer (t t' : TimerId) (T : TimerRegs) :
    (s.setTimer t T).timer t' = if t' = t then T else s.timer t' := by
  simp [State.timer]
@[simp] theorem State.tick_timer (t : TimerId) : s.tick.timer t = (s.timer t).tick s.bits := by
  simp [State.timer]

/-! A power cycle, the one event that is no step. -/

@[simp] theorem State.event_step : s.event .step = step s := rfl
@[simp] theorem State.event_powerCycle : s.event .powerCycle = .next s.powerCycle := rfl
@[simp] theorem State.powerCycle_timer (t : TimerId) : s.powerCycle.timer t = powerUpRegs s.draws t := by
  cases t <;> rfl
@[simp] theorem State.powerCycle_shadow_get (t : TimerId) :
    s.powerCycle.shadow.get t = Config.freeShadow s.draws t := by
  cases t <;> rfl
@[simp] theorem State.powerCycle_cmdWord : s.powerCycle.cmdWord = Config.freeCmdWord s.draws := rfl
@[simp] theorem State.powerCycle_faults : s.powerCycle.faults = s.faults := rfl
@[simp] theorem State.powerCycle_params : s.powerCycle.params = s.params := rfl
@[simp] theorem State.powerCycle_pending : s.powerCycle.pending = s.pending := rfl
@[simp] theorem State.powerCycle_responses : s.powerCycle.responses = s.responses := rfl
@[simp] theorem State.powerCycle_turns : s.powerCycle.turns = s.turns := rfl
@[simp] theorem State.powerCycle_draws : s.powerCycle.draws = s.draws + 1 := rfl

/-! Taking a turn changes only the turns, or the draw counter when none is left. -/

@[simp] theorem State.takeTurn_timers : s.takeTurn.timers = s.timers := by
  unfold State.takeTurn
  split <;> rfl
@[simp] theorem State.takeTurn_shadow : s.takeTurn.shadow = s.shadow := by
  unfold State.takeTurn
  split <;> rfl
@[simp] theorem State.takeTurn_snap : s.takeTurn.snap = s.snap := by
  unfold State.takeTurn
  split <;> rfl
@[simp] theorem State.takeTurn_cmdWord : s.takeTurn.cmdWord = s.cmdWord := by
  unfold State.takeTurn
  split <;> rfl
@[simp] theorem State.takeTurn_faults : s.takeTurn.faults = s.faults := by
  unfold State.takeTurn
  split <;> rfl
@[simp] theorem State.takeTurn_params : s.takeTurn.params = s.params := by
  unfold State.takeTurn
  split <;> rfl
@[simp] theorem State.takeTurn_pending : s.takeTurn.pending = s.pending := by
  unfold State.takeTurn
  split <;> rfl
@[simp] theorem State.takeTurn_responses : s.takeTurn.responses = s.responses := by
  unfold State.takeTurn
  split <;> rfl

theorem State.takeTurn_of_turns {a : Turn} {rest : List Turn} (h : s.turns = a :: rest) :
    s.takeTurn = { s with turns := rest } ∧ s.nextTurn = a := by
  unfold State.takeTurn State.nextTurn
  rw [h]
  exact ⟨rfl, rfl⟩

@[simp] theorem State.takeTurn_bits : s.takeTurn.bits = s.bits := by
  simp [State.bits]

@[simp] theorem State.takeTurn_busy : s.takeTurn.busy = s.busy := by
  simp [State.busy]

end Machine
end Sys2Proof
end

