-- ==== Sys2Proof/Laws/Decode.lean ====
section
/-! SUPPORT. What the fields of a packed command word are, and that its fields make up a word. -/

namespace Sys2Proof

variable (op : BitVec 4) (tid : BitVec 2) (reg : BitVec 3) (data : Word)

/-- The bits of a packed word, field by field (30_encoding.md R42). -/
theorem getLsbD_packCmd (i : Nat) :
    (packCmd op tid reg data).getLsbD i =
      if i < 4 then op.getLsbD i
      else if i < 6 then tid.getLsbD (i - 4)
      else if i < 9 then reg.getLsbD (i - 6)
      else if i < 32 then false
      else data.getLsbD (i - 32) := by
  change BitVec.getLsbD (w := 32 + 23 + 3 + 2 + 4) (data ++ (0 : BitVec 23) ++ reg ++ tid ++ op) i = _
  simp only [BitVec.getLsbD_append, BitVec.ofNat_eq_ofNat, BitVec.getLsbD_zero, Nat.sub_sub]
  split_ifs <;> first | rfl | (exfalso; omega)

@[simp] theorem cmdOp_packCmd : cmdOp (packCmd op tid reg data) = op := by
  refine BitVec.eq_of_getLsbD_eq fun i hi => ?_
  simp only [cmdOp, BitVec.getLsbD_extractLsb', getLsbD_packCmd, Nat.zero_add]
  simp [hi]

@[simp] theorem cmdTid_packCmd : cmdTid (packCmd op tid reg data) = tid := by
  refine BitVec.eq_of_getLsbD_eq fun i hi => ?_
  have h1 : ¬ 4 + i < 4 := by omega
  have h2 : 4 + i < 6 := by omega
  simp [cmdTid, getLsbD_packCmd, h1, h2, hi]

@[simp] theorem cmdReg_packCmd : cmdReg (packCmd op tid reg data) = reg := by
  refine BitVec.eq_of_getLsbD_eq fun i hi => ?_
  have h1 : ¬ 6 + i < 4 := by omega
  have h2 : 6 + i < 9 := by omega
  simp [cmdReg, getLsbD_packCmd, h1, h2, hi]

@[simp] theorem cmdRsv_packCmd : cmdRsv (packCmd op tid reg data) = 0 := by
  refine BitVec.eq_of_getLsbD_eq fun i hi => ?_
  have h1 : ¬ 9 + i < 4 := by omega
  have h2 : ¬ 9 + i < 6 := by omega
  have h3 : 9 + i < 32 := by omega
  simp [cmdRsv, BitVec.getLsbD_extractLsb', getLsbD_packCmd, h1, h2, h3]

@[simp] theorem cmdData_packCmd : cmdData (packCmd op tid reg data) = data := by
  refine BitVec.eq_of_getLsbD_eq fun i hi => ?_
  have h1 : ¬ 32 + i < 4 := by omega
  have h2 : ¬ 32 + i < 6 := by omega
  have h3 : ¬ 32 + i < 9 := by omega
  simp [cmdData, getLsbD_packCmd, h1, h2, h3, hi]

/-- A word whose reserved bits are zero is made of its fields. -/
theorem packCmd_fields (w : DWord) (h : cmdRsv w = 0) :
    packCmd (cmdOp w) (cmdTid w) (cmdReg w) (cmdData w) = w := by
  refine BitVec.eq_of_getLsbD_eq fun i hi => ?_
  have hr (k : Nat) (hk : k < 23) : w.getLsbD (9 + k) = false := by
    have := congrArg (·.getLsbD k) h
    simpa [cmdRsv, BitVec.getLsbD_extractLsb', hk] using this
  simp only [getLsbD_packCmd, cmdOp, cmdTid, cmdReg, cmdData, BitVec.getLsbD_extractLsb']
  split_ifs with h4 h6 h9 h32
  · simp [h4]
  · have h : 4 + (i - 4) = i := by omega
    have : i - 4 < 2 := by omega
    simp [h, this]
  · have h : 6 + (i - 6) = i := by omega
    have : i - 6 < 3 := by omega
    simp [h, this]
  · have h : 9 + (i - 9) = i := by omega
    rw [← h, hr (i - 9) (by omega)]
  · have h : 32 + (i - 32) = i := by omega
    have : i - 32 < 32 := by omega
    simp [h, this]

@[simp] theorem timerOf_bits (t : TimerId) : timerOf t.bits = some t := by cases t <;> rfl
@[simp] theorem regOf_bits (r : RegName) : regOf r.bits = some r := by cases r <;> rfl

theorem timerOf_eq_none (tid : BitVec 2) : timerOf tid = none ↔ tid = 3 := by revert tid; decide
theorem regOf_eq_none (reg : BitVec 3) : regOf reg = none ↔ reg = 6 ∨ reg = 7 := by revert reg; decide

theorem timerOf_eq_some (tid : BitVec 2) (t : TimerId) : timerOf tid = some t ↔ tid = t.bits := by
  cases t <;> (revert tid; decide)
theorem regOf_eq_some (reg : BitVec 3) (r : RegName) : regOf reg = some r ↔ reg = r.bits := by
  cases r <;> (revert reg; decide)

end Sys2Proof
end

