-- ==== Sys2Proof/Laws/Duration.lean ====
section
/-! SUPPORT. The sign of a binary64 quotient. -/

namespace Sys2Proof.Machine

/-- A rounded ratio is not negative. -/
theorem roundBinary64_sign (n d : Nat) : (roundBinary64 n d).getLsbD 63 = false := by
  have below (m : Nat) : (BitVec.ofNat 64 (min m 0x7FF0_0000_0000_0000)).getLsbD 63 = false := by
    have : min m 0x7FF0_0000_0000_0000 < 2 ^ 63 := by omega
    rw [BitVec.getLsbD_ofNat]
    simp [Nat.testBit_lt_two_pow this]
  unfold roundBinary64
  split
  · rfl
  · exact below _

/-- A magnitude takes the sign it is given. -/
theorem withSignOf_sign (b : BitVec 64) {v : BitVec 64} (h : v.getLsbD 63 = false) :
    (withSignOf b v).getLsbD 63 = b.getLsbD 63 := by
  have hs : (0x8000_0000_0000_0000 : BitVec 64).getLsbD 63 = true := by decide
  simp only [withSignOf, BitVec.getLsbD_or, BitVec.getLsbD_and, h, hs, Bool.and_true, Bool.or_false]

end Sys2Proof.Machine
end

