-- ==== Sys2Proof/Laws/Ops.lean ====
section
/-! SUPPORT. One spec lemma for each shared operation, for later proofs to cite instead of unfolding it. -/

namespace Sys2Proof.Machine

/-! ## Register files -/

@[simp] theorem reg_store (T : TimerRegs) (r r' : RegName) (v : Word) :
    (T.store r v).reg r' = if r' = r then v else T.reg r' := by
  cases r <;> cases r' <;> rfl

theorem reg_ext {T U : TimerRegs} (h : ∀ r, T.reg r = U.reg r) : T = U := by
  cases T
  cases U
  have h0 := h .ctrl0
  have h1 := h .load0
  have h2 := h .cnt0
  have h3 := h .ctrl1
  have h4 := h .load1
  have h5 := h .cnt1
  simp only [TimerRegs.reg] at h0 h1 h2 h3 h4 h5
  subst_vars
  rfl

variable (b : BitPositions)

@[simp] theorem applyLoad_ctrl0 (T : TimerRegs) : (T.applyLoad b).ctrl0 = T.ctrl0 := rfl
@[simp] theorem applyLoad_load0 (T : TimerRegs) : (T.applyLoad b).load0 = T.load0 := rfl
@[simp] theorem applyLoad_ctrl1 (T : TimerRegs) : (T.applyLoad b).ctrl1 = T.ctrl1 := rfl
@[simp] theorem applyLoad_load1 (T : TimerRegs) : (T.applyLoad b).load1 = T.load1 := rfl
@[simp] theorem applyLoad_cnt0 (T : TimerRegs) :
    (T.applyLoad b).cnt0 = if b.isLoad T.ctrl0 then T.load0 else T.cnt0 := rfl
@[simp] theorem applyLoad_cnt1 (T : TimerRegs) :
    (T.applyLoad b).cnt1 = if b.isLoad T.ctrl1 then T.load1 else T.cnt1 := rfl

theorem applyLoad_held (T : TimerRegs) : (T.applyLoad b).LoadHeld b := by
  constructor <;> intro h <;> simp_all

theorem applyLoad_of_held {T : TimerRegs} (h : T.LoadHeld b) : T.applyLoad b = T := by
  cases T
  obtain ⟨h0, h1⟩ := h
  simp only [TimerRegs.applyLoad, TimerRegs.mk.injEq, true_and]
  refine ⟨?_, ?_⟩
  · split
    · exact (h0 ‹_›).symm
    · rfl
  · split
    · exact (h1 ‹_›).symm
    · rfl

@[simp] theorem tick_ctrl0 (T : TimerRegs) : (T.tick b).ctrl0 = T.ctrl0 := rfl
@[simp] theorem tick_load0 (T : TimerRegs) : (T.tick b).load0 = T.load0 := rfl
@[simp] theorem tick_ctrl1 (T : TimerRegs) : (T.tick b).ctrl1 = T.ctrl1 := rfl
@[simp] theorem tick_load1 (T : TimerRegs) : (T.tick b).load1 = T.load1 := rfl

/-- A tick keeps the load invariant (R66). -/
theorem tick_held (T : TimerRegs) : (T.tick b).LoadHeld b := by
  refine ⟨fun h => ?_, fun h => ?_⟩
  · have h' : b.isLoad T.ctrl0 = true := h
    simp [TimerRegs.tick, tickHalf, h']
  · have h' : b.isLoad T.ctrl1 = true := h
    simp [TimerRegs.tick, tickHalf, h']

/-! ## The control bits -/

/-- A mask has its one bit (R10). -/
theorem getLsbD_mask {n : Nat} (hn : n < 32) (i : Nat) : ((1 : Word) <<< n).getLsbD i = decide (i = n) := by
  simp only [BitVec.getLsbD_shiftLeft, BitVec.ofNat_eq_ofNat, BitVec.getLsbD_one]
  by_cases h : i = n
  · subst h
    simp [hn]
  · by_cases h1 : i < n
    · simp [h, h1]
    · have h2 : ¬ i - n = 0 := by omega
      simp [h, h2]

/-- Legal offsets name their registers (R30). -/
theorem regAtOffset_get {o : RegOffsets} (h : legalOffsets o) (r : RegName) : regAtOffset o (o.get r) = some r := by
  obtain ⟨h, -⟩ := h
  simp only [List.nodup_cons, List.mem_cons, not_or] at h
  cases r <;> simp [regAtOffset, RegOffsets.get] <;> simp_all [eq_comm]

/-- An offset that names a register is that register's (R30). -/
theorem regAtOffset_eq_some {o : RegOffsets} {n : Nat} {r : RegName} (h : regAtOffset o n = some r) : n = o.get r := by
  unfold regAtOffset at h
  split_ifs at h <;> (cases h; assumption)

/-! ## What each shared operation can do -/

/-- `writeReg` answers a new register file of the one timer, the same state, or CNT_WRITE_FAULT. -/
theorem writeReg_cases (s : State) (t : TimerId) (r : RegName) (v : Word) :
    (writable r = true ∧ s.writeReg t r v = .ok (s.setTimer t (((s.timer t).store r v).applyLoad s.bits))) ∨
    (writable r = false ∧ s.params.cntWritePolicy = .ignore ∧ s.writeReg t r v = .ok s) ∨
    (writable r = false ∧ s.params.cntWritePolicy = .fault ∧ s.writeReg t r v = .error (.cntWriteFault t r)) := by
  unfold State.writeReg
  cases hw : writable r
  · cases hp : s.params.cntWritePolicy <;> simp
  · simp

/-- The response of a write that raised no fault. -/
def writeResponse : Port → Response
  | .command => .command statusOk 0
  | .mmio => .mmio false statusOk 0

/-- A write at a port is `writeReg` with its outcome as the response. -/
theorem writeAt_cases (s : State) (p : Port) (t : TimerId) (r : RegName) (v : Word) :
    (writable r = true ∧
      s.writeAt p t r v = (s.setTimer t (((s.timer t).store r v).applyLoad s.bits)).respond (writeResponse p)) ∨
    (writable r = false ∧ s.params.cntWritePolicy = .ignore ∧ s.writeAt p t r v = s.respond (writeResponse p)) ∨
    (writable r = false ∧ s.params.cntWritePolicy = .fault ∧ s.writeAt p t r v = s.raise p (.cntWriteFault t r)) := by
  obtain ⟨hw, h⟩ | ⟨hw, hp, h⟩ | ⟨hw, hp, h⟩ := writeReg_cases s t r v
  · refine .inl ⟨hw, ?_⟩
    unfold State.writeAt
    rw [h]
    cases p <;> rfl
  · refine .inr (.inl ⟨hw, hp, ?_⟩)
    unfold State.writeAt
    rw [h]
    cases p <;> rfl
  · refine .inr (.inr ⟨hw, hp, ?_⟩)
    unfold State.writeAt
    rw [h]

/-- A command reaches the timer its `tid` names, or raises CONFIG_ERROR. -/
theorem withTimer_cases (s : State) (i : Instr) (tid : BitVec 2) (k : TimerId → State) :
    (∃ t, timerOf tid = some t ∧ s.withTimer i tid k = k t) ∨
    (tid = 3 ∧ s.withTimer i tid k = s.raise .command (.configError i.word)) := by
  unfold State.withTimer
  cases h : timerOf tid with
  | some t => exact .inl ⟨t, rfl, rfl⟩
  | none => exact .inr ⟨(timerOf_eq_none tid).1 h, rfl⟩

/-- A command reaches the register its operands name, or raises CONFIG_ERROR, or ILLEGAL_REGISTER. -/
theorem withTarget_cases (s : State) (i : Instr) (tid : BitVec 2) (reg : BitVec 3) (k : TimerId → RegName → State) :
    (∃ t r, timerOf tid = some t ∧ regOf reg = some r ∧ s.withTarget i tid reg k = k t r) ∨
    (tid = 3 ∧ s.withTarget i tid reg k = s.raise .command (.configError i.word)) ∨
    (tid ≠ 3 ∧ (reg = 6 ∨ reg = 7) ∧ s.withTarget i tid reg k = s.raise .command (.illegalRegister i.word)) := by
  unfold State.withTarget State.withTimer
  cases ht : timerOf tid with
  | none => exact .inr (.inl ⟨(timerOf_eq_none tid).1 ht, rfl⟩)
  | some t =>
    cases hr : regOf reg with
    | some r => exact .inl ⟨t, r, rfl, rfl, rfl⟩
    | none =>
      refine .inr (.inr ⟨?_, (regOf_eq_none reg).1 hr, rfl⟩)
      intro h3
      rw [(timerOf_eq_none tid).2 h3] at ht
      cases ht

/-- The address decoder names a register, or answers BUS_DECODE_ERROR with the address and the size. -/
theorem decodeAddr_cases (p : Params) (addr : Word) (size : AccessSize) :
    (∃ t r, decodeAddr p addr size = .ok (t, r) ∧ size = .word ∧ windowOf p addr = some t ∧
      regAtOffset p.offsets (addr.toNat - (p.base.get t).toNat) = some r) ∨
    decodeAddr p addr size = .error (.busDecodeError addr size) := by
  unfold decodeAddr
  split
  · exact .inr rfl
  split
  · exact .inr rfl
  split
  · exact .inr rfl
  · split
    · refine .inl ⟨_, _, rfl, ?_, ‹_›, ‹_›⟩
      simp_all
    · exact .inr rfl

/-- The snapshot FSM's step by its phase. -/
theorem snapStep_phase (s : State) :
    (s.snap.phase = .idle ∧ s.snapStep = s) ∨
    (s.snap.phase = .rdHi1 ∧
      s.snapStep = { s with snap := { s.snap with hi1 := (s.timer s.snap.tid).cnt1, phase := .rdLo } }) ∨
    (s.snap.phase = .rdLo ∧
      s.snapStep = { s with snap := { s.snap with lo := (s.timer s.snap.tid).cnt0, phase := .rdHi2 } }) ∨
    (s.snap.phase = .rdHi2 ∧
      s.snapStep = { s with snap := { s.snap with hi2 := (s.timer s.snap.tid).cnt1, phase := .cmp } }) ∨
    (s.snap.phase = .cmp ∧ s.snap.hi1 = s.snap.hi2 ∧ s.snapStep = s.acceptSnapshot) ∨
    (s.snap.phase = .cmp ∧ s.snap.hi1 ≠ s.snap.hi2 ∧ s.snapStep = s.retrySnapshot) := by
  unfold State.snapStep
  cases h : s.snap.phase
  · exact .inl ⟨rfl, rfl⟩
  · exact .inr (.inl ⟨rfl, rfl⟩)
  · exact .inr (.inr (.inl ⟨rfl, rfl⟩))
  · exact .inr (.inr (.inr (.inl ⟨rfl, rfl⟩)))
  · by_cases he : s.snap.hi1 = s.snap.hi2
    · exact .inr (.inr (.inr (.inr (.inl ⟨rfl, he, by simp [he]⟩))))
    · exact .inr (.inr (.inr (.inr (.inr ⟨rfl, he, by simp [he]⟩))))

end Sys2Proof.Machine
end

