-- ==== Sys2Proof/Laws/Exec.lean ====
section
/-! SUPPORT. What the meaning of an instruction can do, said once: it answers a next state in one of four ways. -/

namespace Sys2Proof.Machine

/-- The four effects an instruction can have on a state: a response and nothing else; a fault, raised at decoding an operand, an
address, or at a counter write; one register file written and loaded, with a response; or the snapshot FSM started. -/
def Effect (i : Instr) (s s' : State) : Prop :=
  (∃ a, s' = s.respond a) ∨
  (∃ p f, s' = s.raise p f ∧ (∀ w, f ≠ .abortedByReset w) ∧ ∀ t n, f ≠ .retryLimit t n) ∨
  (∃ t r v a, writable r = true ∧ s' = (s.setTimer t (((s.timer t).store r v).applyLoad s.bits)).respond a) ∨
  (∃ tid reg data t, i = .snap64 tid reg data ∧ timerOf tid = some t ∧
    s' = { s with
      snap := { s.snap with tid := t, retries := 0, phase := .rdHi1 }
      cmdWord := i.word })

theorem effect_writeAt (i : Instr) (s : State) (p : Port) (t : TimerId) (r : RegName) (v : Word) :
    Effect i s (s.writeAt p t r v) := by
  obtain ⟨hw, h⟩ | ⟨_, _, h⟩ | ⟨_, _, h⟩ := writeAt_cases s p t r v
  · exact .inr (.inr (.inl ⟨t, r, v, _, hw, h⟩))
  · exact .inl ⟨_, h⟩
  · exact .inr (.inl ⟨p, _, h, by simp, by simp⟩)

theorem effect_withTarget (i : Instr) (s : State) (tid : BitVec 2) (reg : BitVec 3) (k : TimerId → RegName → State)
    (hk : ∀ t r, Effect i s (k t r)) : Effect i s (s.withTarget i tid reg k) := by
  obtain ⟨t, r, _, _, h⟩ | ⟨_, h⟩ | ⟨_, _, h⟩ := withTarget_cases s i tid reg k
  · rw [h]
    exact hk t r
  · exact .inr (.inl ⟨_, _, h, by simp, by simp⟩)
  · exact .inr (.inl ⟨_, _, h, by simp, by simp⟩)

/-- Every instruction answers a next state, in one of the four ways. -/
theorem exec_effect (i : Instr) (s : State) : ∃ s', exec i s = .next s' ∧ Effect i s s' := by
  cases i with
  | rd32 tid reg data => exact ⟨_, rfl, effect_withTarget _ s tid reg _ fun t r => .inl ⟨_, rfl⟩⟩
  | wr32 tid reg data => exact ⟨_, rfl, effect_withTarget _ s tid reg _ fun t r => effect_writeAt _ s _ t r _⟩
  | setb tid reg data => exact ⟨_, rfl, effect_withTarget _ s tid reg _ fun t r => effect_writeAt _ s _ t r _⟩
  | clrb tid reg data => exact ⟨_, rfl, effect_withTarget _ s tid reg _ fun t r => effect_writeAt _ s _ t r _⟩
  | zero tid reg data => exact ⟨_, rfl, effect_withTarget _ s tid reg _ fun t r => effect_writeAt _ s _ t r _⟩
  | snap64 tid reg data =>
    refine ⟨_, rfl, ?_⟩
    obtain ⟨t, ht, h⟩ | ⟨_, h⟩ := withTimer_cases s (.snap64 tid reg data) tid fun t =>
      { s with
        snap := { s.snap with tid := t, retries := 0, phase := .rdHi1 }
        cmdWord := (Instr.snap64 tid reg data).word }
    · exact .inr (.inr (.inr ⟨tid, reg, data, t, rfl, ht, h⟩))
    · exact .inr (.inl ⟨_, _, h, by simp, by simp⟩)
  | busRead size addr wdata =>
    obtain ⟨t, r, h, _⟩ | h := decodeAddr_cases s.params addr size
    · exact ⟨s.respondMmio (s.readReg t r), by simp [exec, execBusRead, h], .inl ⟨_, rfl⟩⟩
    · exact ⟨s.raise .mmio (.busDecodeError addr size), by simp [exec, execBusRead, h],
        .inr (.inl ⟨_, _, rfl, by simp, by simp⟩)⟩
  | busWrite size addr wdata =>
    obtain ⟨t, r, h, _⟩ | h := decodeAddr_cases s.params addr size
    · exact ⟨s.writeAt .mmio t r wdata, by simp [exec, execBusWrite, h], effect_writeAt _ s _ t r _⟩
    · exact ⟨s.raise .mmio (.busDecodeError addr size), by simp [exec, execBusWrite, h],
        .inr (.inl ⟨_, _, rfl, by simp, by simp⟩)⟩

/-- The decoder's faults are those of a command word. -/
theorem decode_error_cases {q : Request} {f : BlockFault} (h : decode q = .error f) :
    q.port = .command ∧ ∃ w, f = .illegalCommand w ∨ f = .configError w ∨ f = .illegalRegister w := by
  cases q with
  | mmio x => cases h
  | command w =>
    refine ⟨rfl, w, ?_⟩
    simp only [decode, decodeCmd] at h
    split at h
    · cases h
      exact .inl rfl
    split at h
    · cases h
      exact .inl rfl
    split at h
    · cases h
      exact .inr (.inl rfl)
    split at h
    · cases h
      exact .inr (.inr rfl)
    · cases h

/-- What the HOST's turn can do: nothing, or answer its next request by the decoder's fault or by an instruction's effect. -/
theorem hostTurn_cases (s : State) :
    (hostTurn s = .next s ∧ (s.busy = true ∨ s.pending = [])) ∨
    (∃ q rest f, s.busy = false ∧ s.pending = q :: rest ∧ decode q = .error f ∧
      hostTurn s = .next ({ s with pending := rest }.raise q.port f)) ∨
    (∃ q rest i s', s.busy = false ∧ s.pending = q :: rest ∧ decode q = .ok i ∧ hostTurn s = .next s' ∧
      Effect i { s with pending := rest } s') := by
  unfold hostTurn
  cases hb : s.busy
  · cases hp : s.pending with
    | nil => exact .inl ⟨rfl, .inr rfl⟩
    | cons q rest =>
      cases hd : decode q with
      | error f => exact .inr (.inl ⟨q, rest, f, rfl, rfl, hd, by simp [serve, hd]⟩)
      | ok i =>
        obtain ⟨s', h, he⟩ := exec_effect i { s with pending := rest }
        exact .inr (.inr ⟨q, rest, i, s', rfl, rfl, hd, by simp [serve, hd, h], he⟩)
  · exact .inl ⟨rfl, .inl rfl⟩

end Sys2Proof.Machine
end

