-- ==== Sys2Proof/Laws/PerInstr.lean ====
section
/-! SUPPORT. Per instruction: the word of a command has its reserved bits clear, and its opcode and fields select the
command again. -/

namespace Sys2Proof.Laws.CommandWord

/-- What holds of an instruction's word (30_encoding.md R42, R43). A transaction has no word. -/
def Statement (i : Instr) : Prop :=
  i.encode.port = .command →
    cmdRsv i.word = 0 ∧ commandOf (cmdOp i.word) (cmdTid i.word) (cmdReg i.word) (cmdData i.word) = some i

theorem rd32 (tid : BitVec 2) (reg : BitVec 3) (data : Word) : Statement (.rd32 tid reg data) := by
  simp [Statement, Instr.word, Instr.encode, commandOf]

theorem wr32 (tid : BitVec 2) (reg : BitVec 3) (data : Word) : Statement (.wr32 tid reg data) := by
  simp [Statement, Instr.word, Instr.encode, commandOf]

theorem setb (tid : BitVec 2) (reg : BitVec 3) (data : Word) : Statement (.setb tid reg data) := by
  simp [Statement, Instr.word, Instr.encode, commandOf]

theorem clrb (tid : BitVec 2) (reg : BitVec 3) (data : Word) : Statement (.clrb tid reg data) := by
  simp [Statement, Instr.word, Instr.encode, commandOf]

theorem zero (tid : BitVec 2) (reg : BitVec 3) (data : Word) : Statement (.zero tid reg data) := by
  simp [Statement, Instr.word, Instr.encode, commandOf]

theorem snap64 (tid : BitVec 2) (reg : BitVec 3) (data : Word) : Statement (.snap64 tid reg data) := by
  simp [Statement, Instr.word, Instr.encode, commandOf]

theorem busRead (size : AccessSize) (addr wdata : Word) : Statement (.busRead size addr wdata) := by
  simp [Statement, Instr.encode, Request.port]

theorem busWrite (size : AccessSize) (addr wdata : Word) : Statement (.busWrite size addr wdata) := by
  simp [Statement, Instr.encode, Request.port]

end Sys2Proof.Laws.CommandWord
end

