-- ==== Sys2Proof/Laws/Run.lean ====
section
/-! SUPPORT. Runs over a list of turns: one step, a stretch of ticks, one turn of the SNAP agent. -/

namespace Sys2Proof.Machine

/-- A step is the turn of the agent whose turn it is (00_scope.md R7). -/
theorem step_of_turn {s : State} {a : Turn} (h : s.nextTurn = a) : step s = runTurn a s.takeTurn := by
  rw [step, h]

/-- A step that answers a next state is the first of a run. -/
theorem run_succ {s s' : State} (h : step s = .next s') (n : Nat) : run (n + 1) s = run n s' := by
  simp only [run, h]

/-- The first step of a run of any machine, by its outcome. -/
theorem coreRun_next (M : Host.Core) {s s' : M.State} (h : M.step s = .next s') (n : Nat) :
    M.run (n + 1) s = M.run n s' := by
  simp only [Host.Core.run, h]

theorem coreRun_fault (M : Host.Core) {s : M.State} {r : M.Fault} (h : M.step s = .fault r) (n : Nat) :
    M.run (n + 1) s = .fault r := by
  simp only [Host.Core.run, h]

theorem coreRun_refused (M : Host.Core) {s : M.State} {r : M.Refusal} (h : M.step s = .refused r) (n : Nat) :
    M.run (n + 1) s = .refused r := by
  simp only [Host.Core.run, h]

/-- `run` is the host's run of the machine. -/
theorem run_eq_core (n : Nat) : ∀ s : State, run n s = Host.Core.run Sys2Proof.core n s := by
  induction n with
  | zero => exact fun _ => rfl
  | succ n ih =>
    intro s
    simp only [run]
    cases h : step s with
    | next s' => exact (ih s').trans (coreRun_next Sys2Proof.core h n).symm
    | fault r => exact (coreRun_fault Sys2Proof.core h n).symm
    | refused r => exact (coreRun_refused Sys2Proof.core h n).symm

theorem ticks_add (p : BitPositions) (a b : Nat) : ∀ T : TimerRegs, T.ticks p (a + b) = (T.ticks p a).ticks p b := by
  induction a with
  | zero =>
    intro T
    simp [TimerRegs.ticks]
  | succ a ih =>
    intro T
    rw [show a + 1 + b = (a + b) + 1 by omega, TimerRegs.ticks, ih, TimerRegs.ticks]

/-- A stretch of TICK turns advances every timer by as many ticks and changes nothing else. -/
theorem run_ticks (n : Nat) : ∀ (s : State) (rest : List Turn) (m : Nat), s.turns = tickTurns n ++ rest →
    ∃ s1, run (n + m) s = run m s1 ∧ s1 = { s with timers := s1.timers, turns := rest } ∧
      ∀ t, s1.timer t = (s.timer t).ticks s.bits n := by
  induction n with
  | zero =>
    intro s rest m h
    refine ⟨s, by simp, ?_, fun t => rfl⟩
    simp only [tickTurns, List.replicate_zero, List.nil_append] at h
    subst h
    rfl
  | succ n ih =>
    intro s rest m h
    have h' : s.turns = .tick :: (tickTurns n ++ rest) := by simpa [tickTurns, List.replicate_succ] using h
    obtain ⟨ht, hn⟩ := State.takeTurn_of_turns s h'
    have hs : step s = .next s.takeTurn.tick := by simp [step, hn, runTurn]
    obtain ⟨s1, e1, e2, e3⟩ := ih s.takeTurn.tick rest m (by rw [ht]; rfl)
    refine ⟨s1, ?_, ?_, ?_⟩
    · rw [show n + 1 + m = (n + m) + 1 by omega, run_succ hs, e1]
    · rw [e2, ht]
      simp [State.tick]
    · intro t
      rw [e3]
      simp [TimerRegs.ticks, State.timer]

/-- One turn of the SNAP agent. -/
theorem run_snap (s : State) (rest : List Turn) (m : Nat) (h : s.turns = .snap :: rest) :
    run (m + 1) s = run m ({ s with turns := rest } : State).snapStep := by
  obtain ⟨ht, hn⟩ := State.takeTurn_of_turns s h
  exact run_succ (by simp [step, hn, runTurn, ht]) m

end Sys2Proof.Machine
end

