-- ==== Sys2Proof/Laws/Session.lean ====
section
/-! SUPPORT. What one turn of a HOST at work can do, and the lifecycle states it keeps. -/

namespace Sys2Proof.Machine

@[simp] theorem lifecycles_get (c : HostCall) (r : HostResult) (l : PerTimer Lifecycle) (t : TimerId) :
    (c.lifecycles r l).get t = if c.worksOn r t then (l.get t).after c else l.get t := by
  cases t <;> rfl

/-- A call that worked on no timer leaves the lifecycle states as they are. -/
theorem lifecycles_of_none {c : HostCall} {r : HostResult} (h : ∀ t, c.worksOn r t = false) (l : PerTimer Lifecycle) :
    c.lifecycles r l = l :=
  PerTimer.ext_get fun t => by simp [h t]

/-- A call of one timer that returned OK moves that timer's lifecycle state only. -/
theorem lifecycles_of_one {c : HostCall} {r : HostResult} {t : TimerId} (h : ∀ t', c.worksOn r t' = decide (t' = t))
    (l : PerTimer Lifecycle) : c.lifecycles r l = l.set t ((l.get t).after c) := by
  refine PerTimer.ext_get fun t' => ?_
  by_cases ht : t' = t
  · simp [h, ht]
  · simp [h, ht]

@[simp] theorem goOn_machine (h : Session) (p : HostProgram) : (h.goOn p).machine = h.machine := by cases p <;> rfl
@[simp] theorem goOn_prog (h : Session) (p : HostProgram) : (h.goOn p).prog = p := by cases p <;> rfl
@[simp] theorem goOn_outstanding (h : Session) (p : HostProgram) : (h.goOn p).outstanding = false := by cases p <;> rfl
@[simp] theorem goOn_call (h : Session) (p : HostProgram) : (h.goOn p).call = h.call := by cases p <;> rfl

@[simp] theorem run_nil (h : Session) : h.run [] = h := rfl
theorem run_cons (h : Session) (a : Turn) (turns : List Turn) : h.run (a :: turns) = (h.turn a).run turns := rfl

/-- A TICK turn moves the machine and nothing of the HOST, which gets no response in it. -/
theorem turn_tick (h : Session) : h.turn .tick = { h with machine := h.machine.tick } := by
  obtain ⟨c, p, o, l, s⟩ := h
  cases p with
  | done r => cases hr : s.responses <;> simp [Session.turn, runTurn, Session.receive, hr]
  | call i k => cases hr : s.responses <;> simp [Session.turn, runTurn, Session.receive, hr]

/-- The HOST's turn in a call at a free port: its next instruction runs, and where that answers the HOST at once the program
goes on with the response. -/
theorem turn_host {h : Session} {i : Instr} {k : Response → HostProgram} {s' : State} {a : Response}
    (hp : h.prog = .call i k) (ho : h.outstanding = false) (hb : h.machine.busy = false)
    (hd : decode i.encode = .ok i)
    (he : exec i { h.machine with pending := [] } = .next s') (ha : s'.responses = a :: h.machine.responses) :
    h.turn .host = ({ h with machine := s' } : Session).goOn (k a) := by
  obtain ⟨c, p, o, l, s⟩ := h
  cases ho
  cases hp
  simp only [State.busy] at hb
  simp_all [Session.turn, Session.issue, runTurn, hostTurn, serve, Session.receive, State.busy]
  cases k a <;> rfl

end Sys2Proof.Machine
end

