-- ==== Sys2Proof/Tests/Slice0.lean ====
section
/-! SUPPORT. Tests on fixed values, each from 95_test_vectors.md or a rule's own example, and a witness for the hypotheses of
each statement. -/

namespace Sys2Proof.Tests
open Sys2Proof.Machine

/-- The parameters of 95_test_vectors.md section 1. -/
def vectorParams : Params :=
  ⟨Config.exampleBases, Config.offsets, Config.bits, 0x4197_D784_0000_0000, none, .ignore, .little⟩

/-- A state with the vectors' parameters and one register file in timer 0. -/
def with0 (T : TimerRegs) : State := { State.reset with timers := ⟨T, .zero, .zero⟩, params := vectorParams }

/-- The state of an outcome. -/
def after : Host.Outcome State Fault Refusal → Option State
  | .next s => some s
  | _ => none

/-- What a step or a meaning leaves in timer 0 and answers first. -/
def seen (o : Host.Outcome State Fault Refusal) : Option (TimerRegs × Option Response) :=
  (after o).map fun s => (s.timers.t0, s.responses.head?)

/-! ## WellFormed refuses an ill-formed term, one for each check -/

theorem test_wf_refuses_timer_three : (Instr.snap64 3 0 0).wf = false := by decide
theorem test_wf_refuses_register_six : (Instr.wr32 0 6 0).wf = false := by decide
theorem test_wf_refuses_register_seven : (Instr.zero 2 7 0).wf = false := by decide
theorem test_wf_snap64_ignores_register : (Instr.snap64 2 7 0xDEAD_BEEF).wf = true := by decide

/-! ## Decoding: words written out from R42 and 95_test_vectors.md 3.1 -/

theorem test_decode_rd32 : decode (.command 0x0000_0000_0000_0161) = .ok (.rd32 2 5 0) := by decide
theorem test_decode_wr32 : decode (.command 0xFFFF_FFFE_0000_0042) = .ok (.wr32 0 1 0xFFFF_FFFE) := by decide
theorem test_decode_setb : decode (.command 0x0000_0020_0000_00E3) = .ok (.setb 2 3 0x20) := by decide
theorem test_decode_clrb : decode (.command 0x0000_0080_0000_0014) = .ok (.clrb 1 0 0x80) := by decide
theorem test_decode_zero : decode (.command 0x0000_0000_0000_0105) = .ok (.zero 0 4 0) := by decide
theorem test_decode_snap64 : decode (.command 0xDEAD_BEEF_0000_01D6) = .ok (.snap64 1 7 0xDEAD_BEEF) := by decide
theorem test_decode_bus_read :
    decode (.mmio ⟨false, .word, 0x2000, 0⟩) = .ok (.busRead .word 0x2000 0) := by decide
theorem test_decode_bus_write :
    decode (.mmio ⟨true, .byte, 0x2000, 0xFF⟩) = .ok (.busWrite .byte 0x2000 0xFF) := by decide
theorem test_decode_zero_word : decode (.command 0) = .error (.illegalCommand 0) := by decide
theorem test_decode_op_before_tid : decode (.command 0x30) = .error (.illegalCommand 0x30) := by decide
theorem test_decode_tid_before_reg : decode (.command 0x1F1) = .error (.configError 0x1F1) := by decide
theorem test_decode_reg : decode (.command 0x1C2) = .error (.illegalRegister 0x1C2) := by decide
theorem test_decode_rsv_first : decode (.command 0x3F1) = .error (.illegalCommand 0x3F1) := by decide
theorem test_decode_rsv_top : decode (.command 0x8000_0001) = .error (.illegalCommand 0x8000_0001) := by decide
theorem test_table_word : decodeTableWord 32 0x26 = some (.snap64 2 0 0) := by decide
theorem test_table_frame_mmio :
    decodeTableWord 68 0x3_0000_2004_0000_0009 = some (.busWrite .word 0x2004 9) := by decide
theorem test_text : Sys2Proof.Machine.Instr.text (.setb 0 3 0x20) = some "SETB t0, CTRL1, 0x20" := by decide

/-! ## One step (the ids are those of 95_test_vectors.md) -/

theorem test_first_step_after_reset :
    (after (step (State.reset.withFetchWord 32 0x26))).map (·.snap.phase) = some .rdHi1 := by decide
theorem test_A1_rd32 :
    seen (exec (.rd32 0 0 0) (with0 { TimerRegs.zero with ctrl0 := 0x880 })) =
      some ({ TimerRegs.zero with ctrl0 := 0x880 }, some (.command 0 0x880)) := by decide
theorem test_A4_wr32_load_held :
    (seen (exec (.wr32 0 4 0x1234_5678) (with0 { TimerRegs.zero with ctrl1 := 0x20 }))).map (·.1) =
      some { TimerRegs.zero with ctrl1 := 0x20, load1 := 0x1234_5678, cnt1 := 0x1234_5678 } := by decide
theorem test_A7_wr32_counter_fault :
    seen (exec (.wr32 0 2 0) { with0 { TimerRegs.zero with cnt0 := 5 } with
      params := { vectorParams with cntWritePolicy := .fault } }) =
      some ({ TimerRegs.zero with cnt0 := 5 }, some (.command 5 0)) := by decide
theorem test_A8_bus_read :
    seen (exec (.busRead .word 0x1000 0) (with0 { TimerRegs.zero with ctrl0 := 0x815 })) =
      some ({ TimerRegs.zero with ctrl0 := 0x815 }, some (.mmio false 0 0x815)) := by decide
theorem test_A9_bus_read_hole :
    (seen (exec (.busRead .word 0x200C 0) (with0 .zero))).map (·.2) = some (some (.mmio true 4 0)) := by decide
theorem test_A16_bus_write_counter_ignored :
    seen (exec (.busWrite .word 0x1008 5) (with0 .zero)) = some (.zero, some (.mmio false 0 0)) := by decide
theorem test_A17_bus_write :
    (after (exec (.busWrite .word 0x3014 9) (with0 .zero))).map (·.timers.t2.load1) = some 9 := by decide
theorem test_K5_setb_all :
    (seen (exec (.setb 0 0 0xFFFF_FFFF) (with0 { TimerRegs.zero with load0 := 0x1234 }))).map (·.1) =
      some { TimerRegs.zero with ctrl0 := 0xFFFF_FFFF, load0 := 0x1234, cnt0 := 0x1234 } := by decide
theorem test_K1_setb_preserves :
    (seen (exec (.setb 0 0 0x80) (with0 { TimerRegs.zero with ctrl0 := 0x822 }))).map (·.1.ctrl0) = some 0x8A2 := by
  decide
theorem test_K2_clrb :
    (seen (exec (.clrb 0 0 0x80) (with0 { TimerRegs.zero with ctrl0 := 0x8A2 }))).map (·.1.ctrl0) = some 0x822 := by
  decide
theorem test_K10_clrb_counter_fault :
    seen (exec (.clrb 0 5 1) { with0 { TimerRegs.zero with cnt1 := 7 } with
      params := { vectorParams with cntWritePolicy := .fault } }) =
      some ({ TimerRegs.zero with cnt1 := 7 }, some (.command 5 0)) := by decide
theorem test_K11_zero_load_held :
    (seen (exec (.zero 0 1 0) (with0 { TimerRegs.zero with ctrl0 := 0x8A2, load0 := 5, cnt0 := 5 }))).map (·.1) =
      some { TimerRegs.zero with ctrl0 := 0x8A2 } := by decide
theorem test_K13_zero_counter :
    seen (exec (.zero 0 2 0) (with0 { TimerRegs.zero with cnt0 := 9 })) =
      some ({ TimerRegs.zero with cnt0 := 9 }, some (.command 0 0)) := by decide
theorem test_S11_snap64_timer_three :
    seen (exec (.snap64 3 0 0) (with0 .zero)) = some (.zero, some (.command 1 0)) := by decide
theorem test_S11_fsm_stays_idle :
    (after (exec (.snap64 3 0 0) (with0 .zero))).map (·.snap.phase) = some .idle := by decide

theorem test_T1_carry :
    ({ TimerRegs.zero with ctrl0 := 0x880, cnt0 := 0xFFFF_FFFF }.tick Config.bits).counter = 0x1_0000_0000 := by decide
theorem test_T4_borrow :
    ({ TimerRegs.zero with ctrl0 := 0x882, cnt1 := 1 }.tick Config.bits).counter = 0xFFFF_FFFF := by decide
theorem test_T6_held_half_gives_no_carry :
    ({ TimerRegs.zero with ctrl0 := 0x8A0, load0 := 0xFFFF_FFFF, cnt0 := 0xFFFF_FFFF, cnt1 := 3 }.tick Config.bits).counter =
      0x3_FFFF_FFFF := by decide
theorem test_T7_load_wins :
    ({ TimerRegs.zero with ctrl0 := 0x880, ctrl1 := 0x20, load1 := 9, cnt1 := 9, cnt0 := 0xFFFF_FFFF }.tick
      Config.bits).counter =
      0x9_0000_0000 := by decide
theorem test_T9_independent :
    ({ TimerRegs.zero with ctrl0 := 0x80, ctrl1 := 0x82, cnt0 := 0xFFFF_FFFF }.tick Config.bits).counter =
      0xFFFF_FFFF_0000_0000 := by decide

/-- S3's state in CMP of the first triple: the readings (0, FFFF_FFFE, 1). -/
def atCmp : State := { with0 { TimerRegs.zero with ctrl0 := 0x880, cnt1 := 1, cnt0 := 1 } with
  snap := ⟨.cmp, .t0, 0, 0xFFFF_FFFE, 1, 0⟩
  cmdWord := 6
  turns := [.snap] }

theorem test_S3_retries : (after (step atCmp)).map (·.snap) = some ⟨.rdHi1, .t0, 0, 0xFFFF_FFFE, 1, 1⟩ := by decide
theorem test_S7_retry_limit :
    (after (step { atCmp with params := { vectorParams with maxRetries := some 0 } })).map
      (fun s => (s.snap.phase, s.faults, s.shadow.t0, s.responses)) =
      some (.idle, [.retryLimit .t0 0], 0, [.command 6 0]) := by decide
theorem test_S1_accepts :
    (after (step { atCmp with snap := ⟨.cmp, .t0, 1, 0, 1, 0⟩ })).map
      (fun s => (s.snap.phase, s.shadow.t0, s.responses, s.cmdWord)) =
      some (.idle, 0x1_0000_0000, [.command 0 0x1_0000_0000], 0) := by decide
theorem test_Z2_rst_aborts :
    (after (step { atCmp with turns := [.rst] })).map (fun s => (s.timers.t0, s.snap, s.faults, s.responses)) =
      some (.zero, .reset, [.abortedByReset 6], [.command 7 0]) := by decide
theorem test_H12_duration :
    ticksToSeconds 9007199254740993 vectorParams.clkHz = 0x4195_798E_E230_8C3A := by decide +kernel
theorem test_duration_of_zero_frequency : ticksToSeconds 1 0x8000_0000_0000_0000 = 0xFFF0_0000_0000_0000 := by decide
theorem test_duration_of_negative_frequency :
    ticksToSeconds 100000000 0xC197_D784_0000_0000 = 0xBFF0_0000_0000_0000 := by decide +kernel
theorem test_lifecycle_init_start :
    (((with0 .zero).session Lifecycle.initial (.init 0)).run (List.replicate 13 .host)).lifecycle.t0 = .stopped ∧
      (HostCall.start 0).lifecycles .ok ⟨.stopped, .stopped, .stopped⟩ = ⟨.running, .stopped, .stopped⟩ := by
  decide +kernel
theorem test_lifecycle_batch_failure :
    HostCall.initAll.lifecycles (.batchFailure 1 (.initVerifyFail 1)) Lifecycle.initial =
      ⟨.stopped, .uninitialized, .uninitialized⟩ := by decide
theorem test_default_layout_legal :
    legalOffsets Config.offsets ∧ legalBits Config.bits ∧ Config.bits.maskCasc = 0x800 ∧ Config.bits.maskEnt = 0x80 ∧
      Config.bits.maskLoad = 0x20 ∧ Config.bits.maskUdt = 2 := by decide
/-- A board with other bit positions: the tick goes by them (R9, R10). -/
theorem test_other_bit_positions :
    ({ TimerRegs.zero with ctrl0 := 0x9, cnt0 := 0xFFFF_FFFF }.tick ⟨31, 2, 3, 0⟩).counter = 0x1_0000_0000 := by decide
theorem test_H14_duration : ticksToSeconds 1 vectorParams.clkHz = 0x3E45_798E_E230_8C3A := by decide +kernel

/-! ## A witness for the hypotheses of each statement -/

/-- An idle state whose next step answers `q`. -/
def asks (q : Request) : State := { with0 .zero with pending := [q], turns := [.host] }

/-- A running snapshot of a timer with the given registers. -/
def snapping (T : TimerRegs) (turns : List Turn) : State :=
  { with0 T with snap := ⟨.rdHi1, .t0, 0, 0, 0, 0⟩, cmdWord := 6, turns := turns }

/-- A running timer in cascade mode, about to wrap (95_test_vectors.md section 3.5). -/
def aboutToWrap : TimerRegs := { TimerRegs.zero with ctrl0 := 0x880, cnt0 := 0xFFFF_FFFE }

theorem witness_DecodeOfEncode : (Instr.snap64 2 7 0xDEAD_BEEF).wf = true := by decide
theorem witness_EncodeOfDecode : decode (.command 0x105) = .ok (.zero 0 4 0) := by decide
theorem witness_DecoderCheckOrder_rsv : (0x3F1#64).extractLsb' 9 23 ≠ 0 := by decide
theorem witness_DecoderCheckOrder_op :
    (0x7#64).extractLsb' 9 23 = 0 ∧ ¬ (1 ≤ ((0x7#64).extractLsb' 0 4).toNat ∧ ((0x7#64).extractLsb' 0 4).toNat ≤ 6) := by
  decide
theorem witness_DecoderCheckOrder_tid :
    (0x1F6#64).extractLsb' 9 23 = 0 ∧ ((0x1F6#64).extractLsb' 0 4).toNat = 6 ∧ (0x1F6#64).extractLsb' 4 2 = 3 := by
  decide
theorem witness_DecoderCheckOrder_reg :
    (0x181#64).extractLsb' 9 23 = 0 ∧ ((0x181#64).extractLsb' 0 4).toNat = 1 ∧ (0x181#64).extractLsb' 4 2 ≠ 3 ∧
      (0x181#64).extractLsb' 0 4 ≠ 6 ∧ ((0x181#64).extractLsb' 6 3).toNat = 6 := by decide
theorem witness_DecoderCheckOrder_legal :
    (0x145#64).extractLsb' 9 23 = 0 ∧ ((0x145#64).extractLsb' 0 4).toNat = 5 ∧ (0x145#64).extractLsb' 4 2 ≠ 3 ∧
      ((0x145#64).extractLsb' 6 3).toNat = 5 := by decide
theorem witness_DecoderCheckOrder_fault : decode (.command 0xF) = .error (.illegalCommand 0xF) := by decide
theorem witness_IgnoredFieldsDoNothing : (2 : BitVec 2) ≠ 3 ∧ (5 : BitVec 3).toNat ≤ 5 := by decide
theorem witness_StepRunsDecodedInstruction :
    (asks (.command 0x105)).issues (.command 0x105) [] ∧ decode (.command 0x105) = .ok (.zero 0 4 0) ∧
      decodeTableWord 32 0x26 = some (.snap64 2 0 0) := by decide
theorem witness_StepAnswersIllegalWord :
    (asks (.command 0xF)).issues (.command 0xF) [] ∧ decode (.command 0xF) = .error (.illegalCommand 0xF) := by decide
theorem witness_BusyPortTakesNoRequest :
    (snapping aboutToWrap [.host]).nextTurn = .host ∧ (snapping aboutToWrap [.host]).snap.phase ≠ .idle := by decide
theorem witness_Rd32RespondsWithRegister : timerOf 2 = some .t2 ∧ regOf 5 = some .cnt1 := by decide
theorem witness_Wr32WritesRegister : timerOf 1 = some .t1 ∧ regOf 4 = some .load1 ∧ RegName.load1 ≠ .cnt0 := by decide
theorem witness_SetbSetsMaskBits : timerOf 0 = some .t0 ∧ regOf 0 = some .ctrl0 ∧ RegName.ctrl0 ≠ .cnt1 := by decide
theorem witness_ClrbClearsMaskBits : timerOf 2 = some .t2 ∧ regOf 3 = some .ctrl1 ∧ RegName.ctrl1 ≠ .cnt1 := by decide
theorem witness_ZeroClearsRegister : timerOf 0 = some .t0 ∧ regOf 1 = some .load0 ∧ RegName.load0 ≠ .cnt0 := by decide
theorem witness_CounterWriteFollowsPolicy :
    timerOf 0 = some .t0 ∧ regOf 2 = some .cnt0 ∧ (with0 .zero).params.cntWritePolicy = .ignore ∧
      (with0 .zero).params.legal := by decide
theorem witness_CounterWriteFollowsPolicy_fault :
    timerOf 2 = some .t2 ∧ regOf 5 = some .cnt1 ∧ { vectorParams with cntWritePolicy := .fault }.legal ∧
      { vectorParams with cntWritePolicy := .fault }.cntWritePolicy = .fault := by decide
theorem witness_IllegalOperandsRaiseFaults_timer :
    Instr.snap64 3 7 0 ∈ [Instr.rd32 3 7 0, .wr32 3 7 0, .setb 3 7 0, .clrb 3 7 0, .zero 3 7 0, .snap64 3 7 0] := by decide
theorem witness_IllegalOperandsRaiseFaults_register : (0 : BitVec 2) ≠ 3 ∧ 6 ≤ (6 : BitVec 3).toNat ∧
    Instr.rd32 0 6 0 ≠ .snap64 0 6 0 := by decide
theorem witness_AddressDecoderExact :
    vectorParams.legal ∧ decodeAddr vectorParams 0x3018 .word = .ok (.t2, .cnt1) ∧
      decodeAddr vectorParams 0x1020 .word = .error (.busDecodeError 0x1020 .word) := by decide
theorem witness_AddressDecoderExact_top :
    ({ vectorParams with base := ⟨0, 0x20, 0xFFFF_FFE0⟩ } : Params).legal ∧
      decodeAddr { vectorParams with base := ⟨0, 0x20, 0xFFFF_FFE0⟩ } 0xFFFF_FFF8 .word = .ok (.t2, .cnt1) := by decide
theorem witness_BusReadAnswersRegister : (with0 .zero).params.legal := by decide
theorem witness_BusWriteWritesRegister : (with0 .zero).params.legal ∧ RegName.load1 ≠ .cnt0 := by decide
theorem witness_BusFaultChangesNothing :
    (with0 .zero).params.legal ∧
      ∀ t (r : RegName), (0x100C : Word) ≠ (with0 .zero).params.base.get t + BitVec.ofNat 32 ((with0 .zero).params.offsets.get r) := by
  refine ⟨by decide, ?_⟩
  intro t r
  cases t <;> cases r <;> decide
theorem witness_BusWriteFrame :
    decodeAddr (with0 .zero).params 0x1000 .word = .ok (.t0, .ctrl0) ∧
      (after (exec (.busWrite .word 0x1000 0x880) (with0 .zero))).isSome = true := by decide
theorem witness_ReadsHaveNoSideEffect :
    (after (exec (.busRead .word 0x1000 0) (with0 .zero))).isSome = true ∧
      (after (exec (.snap64 0 0 0) (with0 .zero))).isSome = true := by decide
theorem witness_PortsAgree : (with0 .zero).params.legal := by decide
theorem witness_StepKeepsInvariant :
    (asks (.command 0x105)).Inv ∧ (after (step (asks (.command 0x105)))).isSome = true := by decide
theorem witness_FaultMarkOnlyGrows : (after (step (asks (.command 0xF)))).isSome = true := by decide
theorem witness_FaultHasNoPartialEffect :
    (after (step (asks (.command 0xF)))).map (·.faults) = some [.illegalCommand 0xF] := by decide
theorem witness_CountersAreOwnedByHardware :
    (after (step { with0 aboutToWrap with turns := [.tick] })).isSome = true ∧
      (after (step (snapping aboutToWrap [.snap]))).isSome = true ∧
      (after (step (asks (.command 0x105)))).isSome = true := by decide
theorem witness_ShadowWrittenOnlyByAccept :
    (after (step { atCmp with snap := ⟨.cmp, .t0, 1, 0, 1, 0⟩ })).map (·.shadow.t0) = some 0x1_0000_0000 := by decide
theorem witness_TickAdvancesAllTimers : ({ with0 aboutToWrap with turns := [.tick] } : State).nextTurn = .tick := by
  decide
theorem witness_CascadeTickRule :
    aboutToWrap.ctrl0.getLsbD Config.bits.casc = true ∧ (0x20#32).getLsbD Config.bits.load = true := by decide
theorem witness_IndependentTickRule : TimerRegs.zero.ctrl0.getLsbD Config.bits.casc = false := by decide
theorem witness_CascadeCounterLaws_up :
    Config.bits.isCascade 0x880 = true ∧ Config.bits.isLoad 0x880 = false ∧ Config.bits.isLoad 0 = false ∧
      Config.bits.isEnabled 0x880 = true ∧ Config.bits.isDown 0x880 = false ∧
      ({ TimerRegs.zero with ctrl0 := 0x880 } : TimerRegs).counter = 0 := by decide
theorem witness_CascadeCounterLaws_down :
    Config.bits.isCascade 0x882 = true ∧ Config.bits.isEnabled 0x882 = true ∧ Config.bits.isDown 0x882 = true ∧
      Config.bits.isLoad 0x882 = false := by decide
theorem witness_CascadeCounterLaws_stopped :
    Config.bits.isCascade 0x800 = true ∧ Config.bits.isEnabled 0x800 = false := by decide
theorem witness_CascadeCounterLaws_wrap :
    ({ TimerRegs.zero with ctrl0 := 0x880, cnt0 := 0xFFFF_FFFF, cnt1 := 0xFFFF_FFFF } : TimerRegs).counter =
      0xFFFF_FFFF_FFFF_FFFF ∧
    ({ TimerRegs.zero with ctrl0 := 0x880, cnt0 := 0xFFFF_FFFF }.tick Config.bits).cnt1 ≠ 0 := by decide
theorem witness_EncoderLeavesCounters :
    timerOf 0 = some .t0 ∧ legalBits (with0 aboutToWrap).bits ∧ (with0 aboutToWrap).LoadInv ∧
      (with0 aboutToWrap).bits.isEnabled ((with0 aboutToWrap).timer .t0).ctrl0 = true ∧
      (with0 aboutToWrap).bits.isLoad ((with0 aboutToWrap).timer .t0).ctrl0 = false ∧ regOf 3 = some .ctrl1 := by decide
theorem witness_EncoderLeavesCounters_stopped :
    (with0 .zero).LoadInv ∧ (with0 .zero).bits.isEnabled ((with0 .zero).timer .t0).ctrl0 = false := by decide
theorem witness_Snap64StartsFsm : timerOf 2 = some .t2 := by decide
theorem witness_SnapReadingSteps :
    (snapping aboutToWrap [.snap]).nextTurn = .snap ∧ (snapping aboutToWrap [.snap]).snap.phase = .rdHi1 := by decide
theorem witness_SnapReadingSteps_later :
    ({ atCmp with snap := { atCmp.snap with phase := .rdLo } } : State).snap.phase = .rdLo ∧
      ({ atCmp with snap := { atCmp.snap with phase := .rdHi2 } } : State).nextTurn = .snap := by decide
theorem witness_CmpAcceptsEqualReadings :
    ({ atCmp with snap := ⟨.cmp, .t0, 1, 0, 1, 0⟩ } : State).nextTurn = .snap ∧
      ({ atCmp with snap := ⟨.cmp, .t0, 1, 0, 1, 0⟩ } : State).snap.hi1 = 1 := by decide
theorem witness_CmpRetriesUnequalReadings :
    atCmp.nextTurn = .snap ∧ atCmp.snap.phase = .cmp ∧ atCmp.snap.hi1 ≠ atCmp.snap.hi2 ∧
      atCmp.params.maxRetries ≠ some atCmp.snap.retries := by decide
theorem witness_CmpRetriesUnequalReadings_cap :
    ({ vectorParams with maxRetries := some 0 } : Params).maxRetries = some atCmp.snap.retries := by decide
theorem witness_FsmTransitions :
    (after (step (asks (.command 0x26)))).map (·.snap.phase) = some .rdHi1 ∧
      (after (step atCmp)).map (·.snap.phase) = some .rdHi1 ∧
      (after (step { atCmp with turns := [.rst] })).map (·.snap.phase) = some .idle := by decide
theorem witness_SnapshotIsConsistent :
    (snapping aboutToWrap (tripleTurns 0 3 0)).snap.phase = .rdHi1 ∧
      (snapping aboutToWrap (tripleTurns 0 3 0)).turns = tripleTurns 0 3 0 ++ [] ∧ aboutToWrap.cnt1Changes Config.bits 3 = 1 ∧
      aboutToWrap.cnt1Changes Config.bits 1 = 0 := by decide
theorem witness_SnapshotEndsWithinTwoTriples :
    let turns := tickTurns 1 ++ (tripleTurns 1 1 1 ++ (tickTurns 1 ++ (tripleTurns 1 1 1 ++ [])))
    6 * 1 < 2 ^ 32 ∧ (∀ g ∈ [1, 1, 1, 1, 1, 1, 1, 1], g ≤ 1) ∧ (snapping aboutToWrap turns).snap.phase = .rdHi1 ∧
      (snapping aboutToWrap turns).snap.retries = 0 ∧ (snapping aboutToWrap turns).params.maxRetries ≠ some 0 ∧
      Config.bits.isCascade ((snapping aboutToWrap turns).timer .t0).ctrl0 = true ∧ (snapping aboutToWrap turns).turns = turns := by
  decide
theorem witness_SnapshotMayNeverEnd :
    let s := snapping { TimerRegs.zero with ctrl1 := 0x80 } (busyTriples 1)
    s.snap.phase = .rdHi1 ∧ s.params.maxRetries = none ∧ s.bits.isCascade (s.timer .t0).ctrl0 = false ∧
      s.bits.isEnabled (s.timer .t0).ctrl1 = true ∧ s.bits.isLoad (s.timer .t0).ctrl1 = false ∧ s.turns = busyTriples 1 := by decide
theorem witness_RstResetsEverything :
    ({ atCmp with turns := [.rst] } : State).nextTurn = .rst ∧ atCmp.snap.phase ≠ .idle ∧
      ({ with0 aboutToWrap with turns := [.rst] } : State).snap.phase = .idle := by decide
theorem witness_AbortRecordsCommandWord :
    (after (exec (.snap64 2 0 0) (with0 .zero))).map (·.cmdWord) = some 0x26 ∧
      (after (step atCmp)).map (·.snap.phase) = some .rdHi1 ∧ atCmp.snap.phase ≠ .idle := by decide
theorem witness_ResetStateIsRstState :
    ({ atCmp with turns := [.rst] } : State).nextTurn = .rst ∧
      (after (step { atCmp with turns := [.rst] })).isSome = true := by decide
theorem witness_InitLeavesTimerZeroed :
    (with0 aboutToWrap).busy = false ∧ legalBits (with0 aboutToWrap).bits ∧ hostTicks 13 (List.replicate 13 .host) := by
  decide
theorem witness_ResetLeavesLoadValues :
    (with0 aboutToWrap).busy = false ∧ legalBits (with0 aboutToWrap).bits ∧
      hostTicks 6 (.tick :: List.replicate 6 .host) ∧ (with0 aboutToWrap).bits.isCascade ((with0 aboutToWrap).timer .t0).ctrl0 = true := by decide
theorem witness_ResetHazardFromIndependentMode :
    let s := with0 { TimerRegs.zero with ctrl1 := 0x80 }
    s.busy = false ∧ legalBits s.bits ∧ s.bits.isCascade (s.timer .t0).ctrl0 = false ∧
      s.bits.isEnabled (s.timer .t0).ctrl1 = true := by decide
theorem witness_ResetAllReturnsOk :
    (with0 aboutToWrap).busy = false ∧ legalBits (with0 aboutToWrap).bits ∧ hostTicks 18 (List.replicate 18 .host) ∧
      (with0 aboutToWrap).bits.isCascade ((with0 aboutToWrap).timer .t0).ctrl0 = true ∧
      (with0 aboutToWrap).bits.isEnabled ((with0 aboutToWrap).timer .t1).ctrl1 = false := by decide
theorem witness_InitAllLeavesTimersZeroed :
    (with0 aboutToWrap).busy = false ∧ legalBits (with0 aboutToWrap).bits ∧ hostTicks 39 (List.replicate 39 .host) := by
  decide
theorem witness_LifecycleFollowsCalls :
    (with0 .zero).busy = false ∧ legalBits (with0 .zero).bits ∧ hostTicks 6 (.tick :: List.replicate 6 .host) := by decide
/-- A stopped timer whose count is one full period of `CNT0` (95_test_vectors.md E2). -/
def onePeriod : TimerRegs := { TimerRegs.zero with ctrl0 := 0x800, cnt1 := 1 }

theorem witness_ElapsedReturnsDuration :
    let after : List Turn := [.tick, .snap, .host, .snap, .tick, .snap, .snap]
    (with0 onePeriod).busy = false ∧ ((with0 onePeriod).timer .t0).tick (with0 onePeriod).bits = (with0 onePeriod).timer .t0 ∧
      (∀ a ∈ [Turn.tick, .snap], a = .tick ∨ a = .snap) ∧ (∀ a ∈ after, a ≠ .rst) ∧ 4 ≤ after.count .snap ∧
      legalBits (with0 onePeriod).bits ∧ hostTicks 13 (.tick :: List.replicate 13 .host) ∧
      0 < (with0 onePeriod).params.clkHz.toNat ∧ (with0 onePeriod).params.clkHz.toNat ≤ 0x7FF0_0000_0000_0000 := by
  decide
theorem test_H11_elapsed :
    (match (((with0 onePeriod).session Lifecycle.initial (.elapsed 0)).run [.host, .snap, .snap, .snap, .snap]).prog with
      | .done r => some r
      | .call _ _ => none) = some (.seconds 0x4045_798E_E230_8C3A) := by decide +kernel
theorem witness_DurationOfSpecialFrequencies :
    (1 : DWord) ≠ 0 ∧ (0x7FF8_0000_0000_0001#64).extractLsb' 52 11 = 0x7FF ∧
      (0x7FF8_0000_0000_0001#64).extractLsb' 0 52 ≠ 0 ∧ (0x4197_D784_0000_0000#64).extractLsb' 52 11 ≠ 0x7FF := by decide
theorem witness_ByteAndCounterOrder : 7 < 8 ∧ hostByte .little 0x1234_5678 0 = 0x78 := by decide

end Sys2Proof.Tests
end

/-! The step at an issued request (00_scope.md R7, 30_encoding.md R48 and R50). -/

namespace Sys2Proof.Machine

/-- A request that decodes is served by its instruction's meaning. -/
theorem serve_of_decode_ok {q : Request} {i : Instr} (h : decode q = .ok i) (s : State) : serve q s = exec i s := by
  simp only [serve, h]

/-- At a free port the HOST's turn serves its next request. -/
theorem hostTurn_of_pending {s : State} {q : Request} {rest : List Request} (hb : s.busy = false)
    (hp : s.pending = q :: rest) : hostTurn s = serve q { s with pending := rest } := by
  simp [hostTurn, hb, hp]

/-- The step at an issued request serves it, be it a legal request or not. -/
theorem step_of_issues {s : State} {q : Request} {rest : List Request} (h : s.issues q rest) :
    step s = serve q (s.issued rest) := by
  obtain ⟨ht, hb, hp⟩ := h
  rw [step_of_turn ht]
  exact hostTurn_of_pending (by simpa using hb) (by simpa using hp)

theorem decodeTableWord_eq_some {nbits w : Nat} {i : Instr} :
    decodeTableWord nbits w = some i ↔ decode (tableRequest nbits w) = .ok i := by
  unfold decodeTableWord
  cases decode (tableRequest nbits w) <;> simp

theorem State.withFetchWord_issues (s : State) (nbits w : Nat) :
    (s.withFetchWord nbits w).issues (tableRequest nbits w) s.pending :=
  ⟨rfl, rfl, rfl⟩

/-- Issuing a loaded request undoes the load, but for the snapshot that the load dropped. -/
theorem State.withFetchWord_issued (s : State) (nbits w : Nat) :
    (s.withFetchWord nbits w).issued s.pending = { s with snap := { s.snap with phase := .idle } } := rfl

/-- Settles O7: an issued request is served by the instruction it decodes to, and a loaded word is an issued request. -/
theorem stepRunsDecodedInstruction : Obligations.StepRunsDecodedInstruction := by
  refine ⟨fun s q rest i hq hd => ?_, fun s nbits w i hd => ?_⟩
  · rw [step_of_issues hq, serve_of_decode_ok hd]
  · rw [step_of_issues (s.withFetchWord_issues nbits w), serve_of_decode_ok (decodeTableWord_eq_some.mp hd),
      s.withFetchWord_issued]

end Sys2Proof.Machine

/-! What one step can do, agent by agent: the inversion lemmas the statements on the state (10_state.md) go through. -/

namespace Sys2Proof.Machine

/-- A step is one agent's turn, in the state with the turn taken (00_scope.md R7). -/
theorem step_next_cases {s s' : State} (h : step s = .next s') :
    (s.nextTurn = .host ∧ hostTurn s.takeTurn = .next s') ∨
    (s.nextTurn = .tick ∧ s' = s.takeTurn.tick) ∨
    (s.nextTurn = .snap ∧ s' = s.takeTurn.snapStep) ∨
    (s.nextTurn = .rst ∧ s' = s.takeTurn.rst) := by
  unfold step at h
  cases ha : s.nextTurn <;> rw [ha] at h
  case host => exact .inl ⟨rfl, h⟩
  case tick => exact .inr (.inl ⟨rfl, (Host.Outcome.next.inj h).symm⟩)
  case snap => exact .inr (.inr (.inl ⟨rfl, (Host.Outcome.next.inj h).symm⟩))
  case rst => exact .inr (.inr (.inr ⟨rfl, (Host.Outcome.next.inj h).symm⟩))

/-- The state a HOST's turn leaves: the same, or its next request is answered by a fault or by an instruction's effect. -/
theorem hostTurn_next_cases {s s' : State} (h : hostTurn s = .next s') :
    s' = s ∨
    (∃ rest p f, s' = ({ s with pending := rest } : State).raise p f) ∨
    (∃ rest i, Effect i { s with pending := rest } s') := by
  obtain ⟨h1, -⟩ | ⟨q, rest, f, -, -, -, h1⟩ | ⟨q, rest, i, s1, -, -, -, h1, he⟩ := hostTurn_cases s
  · exact .inl (Host.Outcome.next.inj (h.symm.trans h1))
  · exact .inr (.inl ⟨rest, q.port, f, Host.Outcome.next.inj (h.symm.trans h1)⟩)
  · obtain rfl := Host.Outcome.next.inj (h.symm.trans h1)
    exact .inr (.inr ⟨rest, i, he⟩)

/-- At a busy port the HOST's turn passes (30_encoding.md R50, log 2). -/
theorem hostTurn_of_busy {s : State} (h : s.busy = true) : hostTurn s = .next s := by
  simp [hostTurn, h]

theorem busy_iff {s : State} : s.busy = true ↔ s.snap.phase ≠ .idle := by
  simp [State.busy]

/-! ## The snapshot unit and RST -/

section Frame
variable (s : State)

@[simp] theorem State.acceptSnapshot_timers : s.acceptSnapshot.timers = s.timers := rfl
@[simp] theorem State.acceptSnapshot_shadow :
    s.acceptSnapshot.shadow = s.shadow.set s.snap.tid (s.snap.hi1 ++ s.snap.lo) := rfl
@[simp] theorem State.acceptSnapshot_params : s.acceptSnapshot.params = s.params := rfl
@[simp] theorem State.acceptSnapshot_faults : s.acceptSnapshot.faults = s.faults := rfl
@[simp] theorem State.acceptSnapshot_responses :
    s.acceptSnapshot.responses = .command statusOk (s.snap.hi1 ++ s.snap.lo) :: s.responses := rfl

/-- A CMP that does not accept raises RETRY_LIMIT at the cap, and otherwise reads the triple again (R77). -/
theorem retrySnapshot_cases :
    (s.params.maxRetries = some s.snap.retries ∧
      s.retrySnapshot = s.endSnapshot.raise .command (.retryLimit s.snap.tid s.snap.retries)) ∨
    (s.params.maxRetries ≠ some s.snap.retries ∧
      s.retrySnapshot = { s with snap := { s.snap with retries := s.snap.retries + 1, phase := .rdHi1 } }) := by
  unfold State.retrySnapshot
  split
  · exact .inl ⟨‹_›, rfl⟩
  · exact .inr ⟨‹_›, rfl⟩

@[simp] theorem State.retrySnapshot_timers : s.retrySnapshot.timers = s.timers := by
  obtain ⟨-, h⟩ | ⟨-, h⟩ := retrySnapshot_cases s <;> simp [h]
@[simp] theorem State.retrySnapshot_shadow : s.retrySnapshot.shadow = s.shadow := by
  obtain ⟨-, h⟩ | ⟨-, h⟩ := retrySnapshot_cases s <;> simp [h]

/-- A SNAP step but for an accepting CMP moves the FSM only, or raises RETRY_LIMIT as it ends the command. -/
theorem snapStep_cases :
    (∃ n, s.snapStep = { s with snap := n }) ∨
    (∃ f, s.snapStep = s.endSnapshot.raise .command f) ∨
    (s.snap.phase = .cmp ∧ s.snap.hi1 = s.snap.hi2 ∧ s.snapStep = s.acceptSnapshot) := by
  obtain ⟨-, h⟩ | ⟨-, h⟩ | ⟨-, h⟩ | ⟨-, h⟩ | accept | ⟨-, -, h⟩ := snapStep_phase s
  · exact .inl ⟨s.snap, h⟩
  · exact .inl ⟨_, h⟩
  · exact .inl ⟨_, h⟩
  · exact .inl ⟨_, h⟩
  · exact .inr (.inr accept)
  · obtain ⟨-, hr⟩ | ⟨-, hr⟩ := retrySnapshot_cases s
    · exact .inr (.inl ⟨_, h.trans hr⟩)
    · exact .inl ⟨_, h.trans hr⟩

/-- The SNAP agent writes no register of a timer (R82). -/
@[simp] theorem State.snapStep_timers : s.snapStep.timers = s.timers := by
  obtain ⟨_, h⟩ | ⟨_, h⟩ | ⟨-, -, h⟩ := snapStep_cases s <;> simp [h]

end Frame

/-! ## The fault mark -/

/-- The fault mark keeps what it holds, and the parameters stay. A new fault comes with the response that carries its code
(R26, R96, R108). -/
def FaultMarkGrows (s s' : State) : Prop :=
  s'.params = s.params ∧
  (s'.faults = s.faults ∨
    ∃ f p, s'.faults = f :: s.faults ∧ s'.responses = faultResponse p (faultCode f) :: s.responses)

theorem faultMarkGrows_of_same {s s' : State} (hp : s'.params = s.params) (hf : s'.faults = s.faults) :
    FaultMarkGrows s s' := ⟨hp, .inl hf⟩

theorem faultMarkGrows_raise (s : State) (p : Port) (f : BlockFault) : FaultMarkGrows s (s.raise p f) :=
  ⟨rfl, .inr ⟨f, p, rfl, rfl⟩⟩

theorem Effect.faultMarkGrows {i : Instr} {s s' : State} (h : Effect i s s') : FaultMarkGrows s s' := by
  obtain ⟨a, rfl⟩ | ⟨p, f, rfl, -⟩ | ⟨t, r, v, a, -, rfl⟩ | ⟨tid, reg, data, t, -, -, rfl⟩ := h
  · exact faultMarkGrows_of_same rfl rfl
  · exact faultMarkGrows_raise s p f
  · exact faultMarkGrows_of_same rfl rfl
  · exact faultMarkGrows_of_same rfl rfl

theorem faultMarkGrows_hostTurn {s s' : State} (h : hostTurn s = .next s') : FaultMarkGrows s s' := by
  obtain rfl | ⟨rest, p, f, rfl⟩ | ⟨rest, i, he⟩ := hostTurn_next_cases h
  · exact faultMarkGrows_of_same rfl rfl
  · exact faultMarkGrows_raise { s with pending := rest } p f
  · exact he.faultMarkGrows

theorem faultMarkGrows_snapStep (s : State) : FaultMarkGrows s s.snapStep := by
  obtain ⟨_, h⟩ | ⟨f, h⟩ | ⟨-, -, h⟩ := snapStep_cases s <;> rw [h]
  · exact faultMarkGrows_of_same rfl rfl
  · exact faultMarkGrows_raise s.endSnapshot .command f
  · exact faultMarkGrows_of_same rfl rfl

/-- RST adds its one ABORTED_BY_RESET at a busy port, and keeps the mark at a free one (R107, R108). -/
theorem faultMarkGrows_rst (s : State) : FaultMarkGrows s s.rst := by
  unfold State.rst
  dsimp only
  split
  · exact ⟨rfl, .inr ⟨_, _, rfl, rfl⟩⟩
  · exact faultMarkGrows_of_same rfl rfl

/-- Settles O27: each agent's turn keeps the parameters and adds at most one fault, with its response. -/
theorem faultMarkOnlyGrows : Obligations.FaultMarkOnlyGrows := by
  intro s s' h
  have grows : FaultMarkGrows s.takeTurn s' := by
    obtain ⟨-, h⟩ | ⟨-, rfl⟩ | ⟨-, rfl⟩ | ⟨-, rfl⟩ := step_next_cases h
    · exact faultMarkGrows_hostTurn h
    · exact faultMarkGrows_of_same rfl rfl
    · exact faultMarkGrows_snapStep _
    · exact faultMarkGrows_rst _
  simpa [FaultMarkGrows] using grows

/-! ## The counters -/

theorem writable_iff {r : RegName} : writable r = true ↔ r ≠ .cnt0 ∧ r ≠ .cnt1 := by
  cases r <;> simp [writable]

theorem store_counters_of_writable {r : RegName} (h : writable r = true) (T : TimerRegs) (v : Word) :
    (T.store r v).cnt0 = T.cnt0 ∧ (T.store r v).cnt1 = T.cnt1 := by
  obtain ⟨h0, h1⟩ := writable_iff.mp h
  have e0 := reg_store T r .cnt0 v
  have e1 := reg_store T r .cnt1 v
  rw [if_neg h0.symm] at e0
  rw [if_neg h1.symm] at e1
  exact ⟨e0, e1⟩

/-- A tick changes no control and no load register (41_control_encoder.md R67). -/
theorem reg_tick_of_writable {r : RegName} (h : writable r = true) (b : BitPositions) (T : TimerRegs) :
    (T.tick b).reg r = T.reg r := by
  cases r with
  | cnt0 | cnt1 => cases h
  | ctrl0 | load0 | ctrl1 | load1 => rfl

/-- From `T` to `U` each counter is kept, or is at its load register with its LOAD bit set (10_state.md R15, R19). -/
def CountersKeptOrLoaded (b : BitPositions) (T U : TimerRegs) : Prop :=
  (U.cnt0 = T.cnt0 ∨ (b.isLoad U.ctrl0 = true ∧ U.cnt0 = U.load0)) ∧
  (U.cnt1 = T.cnt1 ∨ (b.isLoad U.ctrl1 = true ∧ U.cnt1 = U.load1))

theorem countersKeptOrLoaded_refl (b : BitPositions) (T : TimerRegs) : CountersKeptOrLoaded b T T :=
  ⟨.inl rfl, .inl rfl⟩

theorem countersKeptOrLoaded_applyLoad (b : BitPositions) (T : TimerRegs) :
    CountersKeptOrLoaded b T (T.applyLoad b) := by
  constructor
  · cases h : b.isLoad T.ctrl0 <;> simp [h]
  · cases h : b.isLoad T.ctrl1 <;> simp [h]

/-- A register write moves a counter by the load only. -/
theorem countersKeptOrLoaded_store {r : RegName} (h : writable r = true) (b : BitPositions) (T : TimerRegs) (v : Word) :
    CountersKeptOrLoaded b T ((T.store r v).applyLoad b) := by
  obtain ⟨h0, h1⟩ := store_counters_of_writable h T v
  have loaded := countersKeptOrLoaded_applyLoad b (T.store r v)
  unfold CountersKeptOrLoaded at loaded ⊢
  rwa [h0, h1] at loaded

theorem Effect.countersKeptOrLoaded {i : Instr} {s s' : State} (h : Effect i s s') (t : TimerId) :
    CountersKeptOrLoaded s.bits (s.timer t) (s'.timer t) := by
  obtain ⟨a, rfl⟩ | ⟨p, f, rfl, -⟩ | ⟨u, r, v, a, hw, rfl⟩ | ⟨tid, reg, data, u, -, -, rfl⟩ := h
  · exact countersKeptOrLoaded_refl _ _
  · exact countersKeptOrLoaded_refl _ _
  · rw [State.respond_timer, State.setTimer_timer]
    split
    case isTrue hu =>
      rw [hu]
      exact countersKeptOrLoaded_store hw _ _ v
    case isFalse => exact countersKeptOrLoaded_refl _ _
  · exact countersKeptOrLoaded_refl _ _

theorem countersKeptOrLoaded_hostTurn {s s' : State} (h : hostTurn s = .next s') (t : TimerId) :
    CountersKeptOrLoaded s.bits (s.timer t) (s'.timer t) := by
  obtain rfl | ⟨rest, p, f, rfl⟩ | ⟨rest, i, he⟩ := hostTurn_next_cases h
  · exact countersKeptOrLoaded_refl _ _
  · exact countersKeptOrLoaded_refl _ _
  · exact he.countersKeptOrLoaded t

/-- Settles O29, agent by agent. -/
theorem countersAreOwnedByHardware : Obligations.CountersAreOwnedByHardware := by
  intro s s' t h
  refine ⟨fun ha => ?_, fun ha r h0 h1 => ?_, fun ha => ?_⟩ <;> rw [step_of_turn ha] at h
  · obtain rfl := Host.Outcome.next.inj h
    simp
  · obtain rfl := Host.Outcome.next.inj h
    have kept := reg_tick_of_writable (writable_iff.mpr ⟨h0, h1⟩) s.bits (s.timer t)
    simpa [State.readReg, State.timer] using kept
  · have kept := countersKeptOrLoaded_hostTurn h t
    rwa [State.takeTurn_bits, State.timer_def, State.takeTurn_timers] at kept

/-! ## The shadow latches -/

theorem Effect.shadow_eq {i : Instr} {s s' : State} (h : Effect i s s') : s'.shadow = s.shadow := by
  obtain ⟨a, rfl⟩ | ⟨p, f, rfl, -⟩ | ⟨t, r, v, a, -, rfl⟩ | ⟨tid, reg, data, t, -, -, rfl⟩ := h <;> rfl

/-- No HOST's turn writes a latch (R22). -/
theorem hostTurn_shadow {s s' : State} (h : hostTurn s = .next s') : s'.shadow = s.shadow := by
  obtain rfl | ⟨rest, p, f, rfl⟩ | ⟨rest, i, he⟩ := hostTurn_next_cases h
  · rfl
  · rfl
  · exact he.shadow_eq

/-- A SNAP step keeps the latches, or is an accepting CMP (R76). -/
theorem snapStep_shadow_cases (s : State) :
    s.snapStep.shadow = s.shadow ∨
    (s.snap.phase = .cmp ∧ s.snap.hi1 = s.snap.hi2 ∧ s.snapStep = s.acceptSnapshot) := by
  obtain ⟨_, h⟩ | ⟨_, h⟩ | accept := snapStep_cases s
  · exact .inl (by rw [h])
  · exact .inl (by simp [h])
  · exact .inr accept

/-- Settles O30: HOST and TICK write no latch, and SNAP writes that of the timer being read, in an accepting CMP. -/
theorem shadowWrittenOnlyByAccept : Obligations.ShadowWrittenOnlyByAccept := by
  intro s s' t h hrst
  obtain ⟨-, h⟩ | ⟨-, rfl⟩ | ⟨ha, rfl⟩ | ⟨ha, -⟩ := step_next_cases h
  · exact .inl (by rw [hostTurn_shadow h, State.takeTurn_shadow])
  · exact .inl (by simp)
  · obtain hkeep | ⟨hp, he, hs⟩ := snapStep_shadow_cases s.takeTurn
    · exact .inl (by rw [hkeep, State.takeTurn_shadow])
    · rw [State.takeTurn_snap] at hp he
      by_cases ht : t = s.snap.tid
      · exact .inr ⟨ha, hp, he, ht, by simp [hs, ht], by simp [hs, ht, statusOk]⟩
      · exact .inl (by simp [hs, ht])
  · exact absurd ha hrst

/-- Settles O10: at a busy port the HOST's turn passes. -/
theorem busyPortTakesNoRequest : Obligations.BusyPortTakesNoRequest := by
  intro s ha hp
  have hb : s.takeTurn.busy = true := s.takeTurn_busy.trans (busy_iff.mpr hp)
  exact (step_of_turn ha).trans (hostTurn_of_busy hb)

end Sys2Proof.Machine

/-! The address of a register (20_memory.md R30), and the writes of both ports as one operation (40_register_access.md R57). -/

namespace Sys2Proof.Machine

/-! ## The address decoder at a register's address -/

theorem legalOffsets_get {o : RegOffsets} (h : legalOffsets o) (r : RegName) : o.get r < 0x20 ∧ o.get r % 4 = 0 := by
  obtain ⟨-, h⟩ := h
  exact h (o.get r) (by cases r <;> simp [RegOffsets.get])

theorem legalBases_get {b : PerTimer Word} (h : legalBases b) (t : TimerId) : (b.get t).toNat % 0x20 = 0 := by
  obtain ⟨⟨h0, h1, h2⟩, -⟩ := h
  cases t
  · exact h0
  · exact h1
  · exact h2

/-- A legal window ends inside the address space, so that no register's address wraps (R29). -/
theorem regAddr_toNat {p : Params} (h : p.legal) (t : TimerId) (r : RegName) :
    (regAddr p t r).toNat = (p.base.get t).toNat + p.offsets.get r := by
  obtain ⟨hb, ho, -⟩ := h
  have aligned := legalBases_get hb t
  have inside := (legalOffsets_get ho r).1
  have word := (p.base.get t).isLt
  rw [regAddr, BitVec.toNat_add, BitVec.toNat_ofNat]
  omega

theorem inWindow_iff {base addr : Word} :
    inWindow base addr = true ↔ base.toNat ≤ addr.toNat ∧ addr.toNat ≤ base.toNat + 0x1F := by
  simp [inWindow]

/-- Legal windows are disjoint, so the window that holds an address is the one the decoder finds (R29, R30). -/
theorem windowOf_of_inWindow {p : Params} (h : legalBases p.base) {t : TimerId} {addr : Word}
    (hw : inWindow (p.base.get t) addr = true) : windowOf p addr = some t := by
  obtain ⟨-, h01, h02, h12⟩ := h
  have apart {a b : Word} (hab : windowsApart a b) (hb : inWindow b addr = true) : inWindow a addr = false := by
    rw [inWindow_iff] at hb
    rw [← Bool.not_eq_true, inWindow_iff]
    unfold windowsApart at hab
    omega
  cases t with
  | t0 => exact if_pos hw
  | t1 => simp [windowOf, apart h01 hw, show inWindow p.base.t1 addr = true from hw]
  | t2 => simp [windowOf, apart h02 hw, apart h12 hw, show inWindow p.base.t2 addr = true from hw]

/-- A register's address decodes to the register (R30, R56). -/
theorem decodeAddr_regAddr {p : Params} (h : p.legal) (t : TimerId) (r : RegName) :
    decodeAddr p (regAddr p t r) .word = .ok (t, r) := by
  have hn := regAddr_toNat h t r
  obtain ⟨hb, ho, -⟩ := h
  obtain ⟨hlt, hmod⟩ := legalOffsets_get ho r
  have aligned : (regAddr p t r).extractLsb' 0 2 = 0 := by
    have hbase := legalBases_get hb t
    apply BitVec.eq_of_toNat_eq
    simp only [BitVec.extractLsb'_toNat, hn, Nat.shiftRight_zero]
    change _ = 0
    omega
  have window : windowOf p (regAddr p t r) = some t := by
    refine windowOf_of_inWindow hb (inWindow_iff.mpr ?_)
    omega
  have offset : (regAddr p t r).toNat - (p.base.get t).toNat = p.offsets.get r := by omega
  simp [decodeAddr, aligned, window, offset, regAtOffset_get ho]

/-! ## The write instructions as `writeAt` -/

/-- A command whose operands name a register runs on it (30_encoding.md R44, R45). -/
theorem withTarget_of_some {tid : BitVec 2} {reg : BitVec 3} {t : TimerId} {r : RegName} (ht : timerOf tid = some t)
    (hr : regOf reg = some r) (s : State) (i : Instr) (k : TimerId → RegName → State) :
    s.withTarget i tid reg k = k t r := by
  simp only [State.withTarget, State.withTimer, ht, hr]

section Commands
variable {tid : BitVec 2} {reg : BitVec 3} {t : TimerId} {r : RegName} (ht : timerOf tid = some t)
  (hr : regOf reg = some r) (data : Word) (s : State)
include ht hr

theorem exec_wr32 : exec (.wr32 tid reg data) s = .next (s.writeAt .command t r data) :=
  congrArg _ (withTarget_of_some ht hr s _ _)

theorem exec_setb :
    exec (.setb tid reg data) s = .next (s.writeAt .command t r (encodeBits .set (s.readReg t r) data)) :=
  congrArg _ (withTarget_of_some ht hr s _ _)

theorem exec_clrb :
    exec (.clrb tid reg data) s = .next (s.writeAt .command t r (encodeBits .clr (s.readReg t r) data)) :=
  congrArg _ (withTarget_of_some ht hr s _ _)

theorem exec_zero : exec (.zero tid reg data) s = .next (s.writeAt .command t r (encodeBits .zero 0 0)) :=
  congrArg _ (withTarget_of_some ht hr s _ _)

/-- The four writing commands are one write at the command port, of a word each makes in its own way. -/
theorem exec_writeCommand {i : Instr}
    (hi : i ∈ [Instr.wr32 tid reg data, .setb tid reg data, .clrb tid reg data, .zero tid reg data]) :
    ∃ v, exec i s = .next (s.writeAt .command t r v) := by
  simp only [List.mem_cons, List.not_mem_nil, or_false] at hi
  obtain rfl | rfl | rfl | rfl := hi
  · exact ⟨_, exec_wr32 ht hr data s⟩
  · exact ⟨_, exec_setb ht hr data s⟩
  · exact ⟨_, exec_clrb ht hr data s⟩
  · exact ⟨_, exec_zero ht hr data s⟩

end Commands

/-- BUS_WRITE at a register's address is a write at the MMIO port (R61). -/
theorem exec_busWrite_regAddr {s : State} (h : s.params.legal) (t : TimerId) (r : RegName) (v : Word) :
    exec (.busWrite .word (regAddr s.params t r) v) s = .next (s.writeAt .mmio t r v) := by
  simp only [exec, execBusWrite, decodeAddr_regAddr h t r]

/-! ## A write of a counter -/

section Counter
variable {r : RegName} (hr : writable r = false) {s : State}
include hr

theorem writeAt_counter_ignored (hp : s.params.cntWritePolicy = .ignore) (p : Port) (t : TimerId) (v : Word) :
    s.writeAt p t r v = s.respond (writeResponse p) := by
  obtain ⟨hw, -⟩ | ⟨-, -, h⟩ | ⟨-, hf, -⟩ := writeAt_cases s p t r v
  · simp [hr] at hw
  · exact h
  · simp [hp] at hf

theorem writeAt_counter_faults (hp : s.params.cntWritePolicy = .fault) (p : Port) (t : TimerId) (v : Word) :
    s.writeAt p t r v = s.raise p (.cntWriteFault t r) := by
  obtain ⟨hw, -⟩ | ⟨-, hi, -⟩ | ⟨-, -, h⟩ := writeAt_cases s p t r v
  · simp [hr] at hw
  · simp [hp] at hi
  · exact h

end Counter

/-- Settles O16: each write is a `writeAt` of its port, which does what the policy says. -/
theorem counterWriteFollowsPolicy : Obligations.CounterWriteFollowsPolicy := by
  intro tid reg data s t r ht hr hcnt
  have hro : writable r = false := by obtain rfl | rfl := hcnt <;> rfl
  refine ⟨fun i hi => ?_, fun hlegal => ?_⟩
  · obtain ⟨v, he⟩ := exec_writeCommand ht hr data s hi
    exact ⟨fun hp => he.trans (congrArg _ (writeAt_counter_ignored hro hp .command t v)),
      fun hp => he.trans (congrArg _ (writeAt_counter_faults hro hp .command t v))⟩
  · have he := exec_busWrite_regAddr hlegal t r data
    exact ⟨fun hp => he.trans (congrArg _ (writeAt_counter_ignored hro hp .mmio t data)),
      fun hp => he.trans (congrArg _ (writeAt_counter_faults hro hp .mmio t data))⟩

end Sys2Proof.Machine

/-! The address space (20_memory.md): which addresses name registers, what an access does to the words at all the others, and
the bytes of a word. -/

namespace Sys2Proof.Machine

/-! ## The address decoder, both ways -/

theorem inWindow_of_windowOf {p : Params} {addr : Word} {t : TimerId} (h : windowOf p addr = some t) :
    inWindow (p.base.get t) addr = true := by
  unfold windowOf at h
  split_ifs at h <;> (cases h; assumption)

/-- With legal parameters an access reaches a register exactly when it has size 4 and the register's address (R30, R56). -/
theorem decodeAddr_eq_ok_iff {p : Params} (h : p.legal) {addr : Word} {size : AccessSize} {t : TimerId} {r : RegName} :
    decodeAddr p addr size = .ok (t, r) ↔ size = .word ∧ addr = regAddr p t r := by
  constructor
  · intro hd
    obtain ⟨t', r', hd', hsize, hwindow, hoffset⟩ | he := decodeAddr_cases p addr size
    · obtain ⟨rfl, rfl⟩ := Prod.mk.inj (Except.ok.inj (hd'.symm.trans hd))
      have inside := inWindow_iff.mp (inWindow_of_windowOf hwindow)
      have offset := regAtOffset_eq_some hoffset
      have address := regAddr_toNat h t' r'
      exact ⟨hsize, BitVec.eq_of_toNat_eq (by omega)⟩
    · cases hd.symm.trans he
  · rintro ⟨rfl, rfl⟩
    exact decodeAddr_regAddr h t r

/-- The decoder's one fault records the access (R30, R93). -/
theorem eq_busDecodeError_of_decodeAddr {p : Params} {addr : Word} {size : AccessSize} {f : BlockFault}
    (h : decodeAddr p addr size = .error f) : f = .busDecodeError addr size := by
  obtain ⟨_, _, hd, -⟩ | he := decodeAddr_cases p addr size
  · cases h.symm.trans hd
  · exact Except.error.inj (h.symm.trans he)

/-- Settles O18: the decoder both ways, and the offsets R9 decides register by register. -/
theorem addressDecoderExact : Obligations.AddressDecoderExact := by
  refine ⟨fun p addr size h => ⟨fun t r => decodeAddr_eq_ok_iff h, fun f => eq_busDecodeError_of_decodeAddr⟩, fun r => ?_⟩
  cases r <;> exact ⟨rfl, rfl⟩

/-! ## A transaction by what its address decodes to -/

section Transactions
variable {s : State} {addr : Word} {size : AccessSize} (wdata : Word)

theorem exec_busRead_of_ok {t : TimerId} {r : RegName} (h : decodeAddr s.params addr size = .ok (t, r)) :
    exec (.busRead size addr wdata) s = .next (s.respondMmio (s.readReg t r)) := by
  simp only [exec, execBusRead, h]

theorem exec_busRead_of_error {f : BlockFault} (h : decodeAddr s.params addr size = .error f) :
    exec (.busRead size addr wdata) s = .next (s.raise .mmio f) := by
  simp only [exec, execBusRead, h]

theorem exec_busWrite_of_ok {t : TimerId} {r : RegName} (h : decodeAddr s.params addr size = .ok (t, r)) :
    exec (.busWrite size addr wdata) s = .next (s.writeAt .mmio t r wdata) := by
  simp only [exec, execBusWrite, h]

theorem exec_busWrite_of_error {f : BlockFault} (h : decodeAddr s.params addr size = .error f) :
    exec (.busWrite size addr wdata) s = .next (s.raise .mmio f) := by
  simp only [exec, execBusWrite, h]

end Transactions

/-- Settles O21: such an access decodes to no register, so both transactions raise the decoder's fault. -/
theorem busFaultChangesNothing : Obligations.BusFaultChangesNothing := by
  intro s size addr wdata hlegal hbad
  have fault : decodeAddr s.params addr size = .error (.busDecodeError addr size) := by
    obtain ⟨t, r, hd, -⟩ | he := decodeAddr_cases s.params addr size
    · obtain ⟨hsize, haddr⟩ := (decodeAddr_eq_ok_iff hlegal).mp hd
      obtain hne | hne := hbad
      · exact absurd hsize hne
      · exact absurd haddr (hne t r)
    · exact he
  exact ⟨exec_busRead_of_error wdata fault, exec_busWrite_of_error wdata fault⟩

/-! ## The words of the address space -/

theorem wordAt_of_ok {s : State} {addr : Word} {t : TimerId} {r : RegName}
    (h : decodeAddr s.params addr .word = .ok (t, r)) : s.wordAt addr = some (s.readReg t r) := by
  simp only [State.wordAt, h]

/-- An address reads as before when the register it decodes to does. -/
theorem wordAt_congr {s s' : State} {addr : Word} (hp : s'.params = s.params)
    (h : ∀ t r, decodeAddr s.params addr .word = .ok (t, r) → s'.readReg t r = s.readReg t r) :
    s'.wordAt addr = s.wordAt addr := by
  unfold State.wordAt
  rw [hp]
  cases hd : decodeAddr s.params addr .word with
  | error f => rfl
  | ok tr => exact congrArg some (h tr.1 tr.2 hd)

/-- The address space shows the timers' registers and nothing else of the state (R28). -/
theorem wordAt_of_timers_eq {s s' : State} (hp : s'.params = s.params) (ht : s'.timers = s.timers) (addr : Word) :
    s'.wordAt addr = s.wordAt addr := by
  refine wordAt_congr hp fun t r _ => ?_
  rw [State.readReg, State.timer_def, ht]
  rfl

/-! ## The registers after a write -/

/-- The load moves no register but the counter of a half whose LOAD bit is set (R66). -/
theorem reg_applyLoad {b : BitPositions} {T : TimerRegs} {r : RegName} (h0 : r = .cnt0 → b.isLoad T.ctrl0 = false)
    (h1 : r = .cnt1 → b.isLoad T.ctrl1 = false) : (T.applyLoad b).reg r = T.reg r := by
  cases r with
  | ctrl0 | load0 | ctrl1 | load1 => rfl
  | cnt0 => simp [TimerRegs.reg, h0 rfl]
  | cnt1 => simp [TimerRegs.reg, h1 rfl]

section Write
variable (s : State) (p : Port) (t : TimerId) (r : RegName) (v : Word)

/-- A write, whatever its outcome, leaves all but the register file, the fault mark and the responses as they were. -/
theorem writeAt_frame :
    s.writeAt p t r v = { s with
      timers := (s.writeAt p t r v).timers
      faults := (s.writeAt p t r v).faults
      responses := (s.writeAt p t r v).responses } := by
  obtain ⟨-, h⟩ | ⟨-, -, h⟩ | ⟨-, -, h⟩ := writeAt_cases s p t r v <;> rw [h] <;> rfl

/-- A write moves no register but its own and the counter of a half of its timer whose LOAD bit is then set (R12, R66). -/
theorem readReg_writeAt_of_ne {t' : TimerId} {r' : RegName} (hne : t' = t → r' ≠ r)
    (h0 : t' = t → r' = .cnt0 → s.bits.isLoad ((s.writeAt p t r v).timer t).ctrl0 = false)
    (h1 : t' = t → r' = .cnt1 → s.bits.isLoad ((s.writeAt p t r v).timer t).ctrl1 = false) :
    (s.writeAt p t r v).readReg t' r' = s.readReg t' r' := by
  obtain ⟨-, h⟩ | ⟨-, -, h⟩ | ⟨-, -, h⟩ := writeAt_cases s p t r v <;> rw [h] at h0 h1 ⊢
  case inr.inl | inr.inr => rfl
  by_cases ht : t' = t
  · subst ht
    have load0 := h0 rfl
    have load1 := h1 rfl
    simp only [State.respond_timer, State.setTimer_timer, if_true, applyLoad_ctrl0, applyLoad_ctrl1] at load0 load1
    simp [State.readReg, reg_applyLoad load0 load1, hne rfl]
  · simp [State.readReg, ht]

/-- A write of a control or load register reads back (R57). -/
theorem readReg_writeAt_self {r : RegName} (hr : writable r = true) : (s.writeAt p t r v).readReg t r = v := by
  obtain ⟨hc0, hc1⟩ := writable_iff.mp hr
  obtain ⟨-, h⟩ | ⟨hf, -⟩ | ⟨hf, -⟩ := writeAt_cases s p t r v
  · rw [h]
    simp [State.readReg, reg_applyLoad (fun e => absurd e hc0) (fun e => absurd e hc1)]
  all_goals cases hr.symm.trans hf

end Write

/-- Settles O22: BUS_WRITE is a write of the register its address decodes to, and another address decodes to another register
of that timer or to another timer's. -/
theorem busWriteFrame : Obligations.BusWriteFrame := by
  intro s s' size addr wdata t r hlegal hd hexec
  obtain rfl := Host.Outcome.next.inj ((exec_busWrite_of_ok wdata hd).symm.trans hexec)
  obtain ⟨rfl, rfl⟩ := (decodeAddr_eq_ok_iff hlegal).mp hd
  have frame := writeAt_frame s .mmio t r wdata
  have params : (s.writeAt .mmio t r wdata).params = s.params := by rw [frame]
  refine ⟨by rw [frame], by rw [frame], params, fun a hne hload0 hload1 => ?_, fun hc0 hc1 => ?_⟩
  · refine wordAt_congr params fun t' r' hd' => ?_
    obtain ⟨-, rfl⟩ := (decodeAddr_eq_ok_iff hlegal).mp hd'
    refine readReg_writeAt_of_ne s .mmio t r wdata ?_ ?_ ?_
    · rintro rfl rfl
      exact hne rfl
    · rintro rfl rfl
      exact hload0 rfl
    · rintro rfl rfl
      exact hload1 rfl
  · rw [wordAt_of_ok (by rwa [params]), readReg_writeAt_self s .mmio t wdata (writable_iff.mpr ⟨hc0, hc1⟩)]

/-! ## Reads and the acceptance of SNAP64 -/

/-- A read by either port answers, or raises an operand's or the decoder's fault (R58, R60). -/
theorem exec_read_cases {tid : BitVec 2} {reg : BitVec 3} {data addr : Word} {size : AccessSize} {s s' : State} {i : Instr}
    (hi : i ∈ [Instr.rd32 tid reg data, .busRead size addr data]) (h : exec i s = .next s') :
    (∃ a, s' = s.respond a) ∨ ∃ p f, s' = s.raise p f := by
  simp only [List.mem_cons, List.not_mem_nil, or_false] at hi
  obtain rfl | rfl := hi
  · obtain rfl := Host.Outcome.next.inj h
    obtain ⟨t, r, -, -, e⟩ | ⟨-, e⟩ | ⟨-, -, e⟩ := withTarget_cases s (.rd32 tid reg data) tid reg fun t r =>
      s.respondCommand ((s.readReg t r).zeroExtend 64)
    · exact .inl ⟨_, e⟩
    · exact .inr ⟨_, _, e⟩
    · exact .inr ⟨_, _, e⟩
  · obtain ⟨t, r, hd, -⟩ | hd := decodeAddr_cases s.params addr size
    · exact .inl ⟨_, Host.Outcome.next.inj (h.symm.trans (exec_busRead_of_ok data hd))⟩
    · exact .inr ⟨_, _, Host.Outcome.next.inj (h.symm.trans (exec_busRead_of_error data hd))⟩

/-- SNAP64 writes the FSM only, or raises CONFIG_ERROR (R72). -/
theorem exec_snap64_frame {tid : BitVec 2} {reg : BitVec 3} {data : Word} {s s' : State}
    (h : exec (.snap64 tid reg data) s = .next s') :
    s'.timers = s.timers ∧ s'.shadow = s.shadow ∧ s'.params = s.params := by
  obtain rfl := Host.Outcome.next.inj h
  obtain ⟨t, -, e⟩ | ⟨-, e⟩ := withTimer_cases s (.snap64 tid reg data) tid fun t =>
    { s with
      snap := { s.snap with tid := t, retries := 0, phase := .rdHi1 }
      cmdWord := (Instr.snap64 tid reg data).word }
  all_goals exact e ▸ ⟨rfl, rfl, rfl⟩

/-- Settles O23: neither a read nor SNAP64 writes a timer, so no address reads otherwise. -/
theorem readsHaveNoSideEffect : Obligations.ReadsHaveNoSideEffect := by
  intro tid reg data addr size s s'
  refine ⟨fun i hi h => ?_, fun h => ?_⟩
  · obtain ⟨a, rfl⟩ | ⟨p, f, rfl⟩ := exec_read_cases hi h
    · exact ⟨rfl, wordAt_of_timers_eq rfl rfl⟩
    · exact ⟨rfl, wordAt_of_timers_eq rfl rfl⟩
  · obtain ⟨timers, shadow, params⟩ := exec_snap64_frame h
    exact ⟨timers, shadow, wordAt_of_timers_eq params timers⟩

/-! ## The bytes of a word and the halves of the counter -/

/-- Settles O55: a byte is cut out of the word at `8k`, and bit `i` of the counter is that of `CNT0` below 32 and of `CNT1`
from there on. -/
theorem byteAndCounterOrder : Obligations.ByteAndCounterOrder := by
  refine ⟨fun w k i hi => ?_, fun T => ?_⟩
  · simp [hostByte, hi]
  · apply BitVec.eq_of_getLsbD_eq
    intro i hi
    rw [TimerRegs.counter, BitVec.getLsbD_append]
    by_cases low : i < 32
    · simp [low, hi]
    · have above := BitVec.getLsbD_of_ge T.cnt0 i (by omega)
      simp [low, hi, above]

end Sys2Proof.Machine

/-! The encoding (30_encoding.md): the decoder check by check, decoding and encoding as inverses, and what the fields a command
ignores or an operand that names nothing do when the command runs. -/

namespace Sys2Proof

/-! ## Operand fields as numbers -/

/-- Register indices 6 and 7 name no register (R45). -/
theorem regOf_eq_none_iff_toNat {reg : BitVec 3} : regOf reg = none ↔ 6 ≤ reg.toNat := by
  revert reg
  decide

theorem exists_timerOf {tid : BitVec 2} (h : tid ≠ 3) : ∃ t, timerOf tid = some t :=
  Option.ne_none_iff_exists'.mp ((timerOf_eq_none tid).not.mpr h)

theorem exists_regOf {reg : BitVec 3} (h : reg.toNat ≤ 5) : ∃ r, regOf reg = some r :=
  Option.ne_none_iff_exists'.mp (regOf_eq_none_iff_toNat.not.mpr (by omega))

theorem wfTimer_iff {tid : BitVec 2} : wfTimer tid = true ↔ tid ≠ 3 := by
  simp [wfTimer]

theorem wfReg_iff {reg : BitVec 3} : wfReg reg = true ↔ regOf reg ≠ none := by
  simp [wfReg, regOf_eq_none]

/-! ## The command an opcode selects -/

section CommandOf
variable {op : BitVec 4} {tid : BitVec 2} {reg : BitVec 3} {data : Word} {i : Instr}

/-- An opcode selects a command exactly when it is not reserved (R43, R54). -/
theorem commandOf_eq_none : commandOf op tid reg data = none ↔ ¬ (1 ≤ op.toNat ∧ op.toNat ≤ 6) := by
  unfold commandOf
  split
  case h_7 h1 h2 h3 h4 h5 h6 =>
    refine iff_of_true rfl ?_
    simp only [imp_false, ← BitVec.toNat_inj, BitVec.toNat_ofNat] at h1 h2 h3 h4 h5 h6
    omega
  all_goals simp

theorem exists_command (h : 1 ≤ op.toNat ∧ op.toNat ≤ 6) (tid : BitVec 2) (reg : BitVec 3) (data : Word) :
    ∃ i, commandOf op tid reg data = some i :=
  Option.ne_none_iff_exists'.mp (commandOf_eq_none.not.mpr (not_not.mpr h))

/-- The six commands with their opcodes (R43). -/
theorem commandOf_eq_some_cases (h : commandOf op tid reg data = some i) :
    (op = 1 ∧ i = .rd32 tid reg data) ∨ (op = 2 ∧ i = .wr32 tid reg data) ∨ (op = 3 ∧ i = .setb tid reg data) ∨
    (op = 4 ∧ i = .clrb tid reg data) ∨ (op = 5 ∧ i = .zero tid reg data) ∨ (op = 6 ∧ i = .snap64 tid reg data) := by
  unfold commandOf at h
  split at h <;> simp_all

/-- The command an opcode selects is encoded by that opcode and those fields (R42, R43). -/
theorem encode_of_commandOf (h : commandOf op tid reg data = some i) :
    i.encode = .command (packCmd op tid reg data) := by
  obtain ⟨rfl, rfl⟩ | ⟨rfl, rfl⟩ | ⟨rfl, rfl⟩ | ⟨rfl, rfl⟩ | ⟨rfl, rfl⟩ | ⟨rfl, rfl⟩ := commandOf_eq_some_cases h
  all_goals rfl

/-- A command is well-formed when its `tid` names a timer and, but for SNAP64, its `reg` names a register (R44, R45). -/
theorem wf_of_commandOf (h : commandOf op tid reg data = some i) :
    i.wf = true ↔ tid ≠ 3 ∧ (op = 6 ∨ regOf reg ≠ none) := by
  obtain ⟨rfl, rfl⟩ | ⟨rfl, rfl⟩ | ⟨rfl, rfl⟩ | ⟨rfl, rfl⟩ | ⟨rfl, rfl⟩ | ⟨rfl, rfl⟩ := commandOf_eq_some_cases h
  all_goals simp [Instr.wf, wfTimer_iff, wfReg_iff]

end CommandOf

/-- Every instruction's word has its reserved bits clear, and its fields select the instruction again. -/
theorem commandWord_statement (i : Instr) : Laws.CommandWord.Statement i := by
  cases i with
  | rd32 tid reg data => exact Laws.CommandWord.rd32 tid reg data
  | wr32 tid reg data => exact Laws.CommandWord.wr32 tid reg data
  | setb tid reg data => exact Laws.CommandWord.setb tid reg data
  | clrb tid reg data => exact Laws.CommandWord.clrb tid reg data
  | zero tid reg data => exact Laws.CommandWord.zero tid reg data
  | snap64 tid reg data => exact Laws.CommandWord.snap64 tid reg data
  | busRead size addr wdata => exact Laws.CommandWord.busRead size addr wdata
  | busWrite size addr wdata => exact Laws.CommandWord.busWrite size addr wdata

/-- A word encodes a command exactly when its reserved bits are clear and its fields select the command (R42, R43, R47). -/
theorem encode_eq_command_iff {i : Instr} {w : DWord} :
    i.encode = .command w ↔
      cmdRsv w = 0 ∧ commandOf (cmdOp w) (cmdTid w) (cmdReg w) (cmdData w) = some i := by
  constructor
  · intro h
    have word : i.word = w := by rw [Instr.word, h]
    have port : i.encode.port = .command := by rw [h]; rfl
    exact word ▸ commandWord_statement i port
  · rintro ⟨rsv, h⟩
    rw [encode_of_commandOf h, packCmd_fields w rsv]

/-! ## The decoder, check by check (R48) -/

section Checks
variable {w : DWord}

theorem decodeCmd_of_rsv (rsv : cmdRsv w ≠ 0) : decodeCmd w = .error (.illegalCommand w) := if_pos rsv

theorem decodeCmd_of_reserved_op (rsv : cmdRsv w = 0) (op : ¬ (1 ≤ (cmdOp w).toNat ∧ (cmdOp w).toNat ≤ 6)) :
    decodeCmd w = .error (.illegalCommand w) := by
  simp [decodeCmd, rsv, commandOf_eq_none.mpr op]

/-- A word that passes the first two checks selects a command, and the checks of its operands follow in this order. -/
theorem decodeCmd_of_command {i : Instr} (rsv : cmdRsv w = 0)
    (h : commandOf (cmdOp w) (cmdTid w) (cmdReg w) (cmdData w) = some i) :
    decodeCmd w =
      if cmdTid w = 3 then .error (.configError w)
      else if cmdOp w ≠ 6 ∧ regOf (cmdReg w) = none then .error (.illegalRegister w)
      else .ok i := by
  simp [decodeCmd, rsv, h, timerOf_eq_none]

/-- A word decodes to an instruction exactly when it is the encoding of that well-formed instruction. -/
theorem decodeCmd_eq_ok_iff {i : Instr} : decodeCmd w = .ok i ↔ i.encode = .command w ∧ i.wf = true := by
  constructor
  · intro h
    have rsv : cmdRsv w = 0 := by
      by_contra hne
      simp [decodeCmd_of_rsv hne] at h
    cases hj : commandOf (cmdOp w) (cmdTid w) (cmdReg w) (cmdData w) with
    | none => simp [decodeCmd, rsv, hj] at h
    | some j =>
      rw [decodeCmd_of_command rsv hj] at h
      split_ifs at h with tid reg
      cases h
      exact ⟨encode_eq_command_iff.mpr ⟨rsv, hj⟩, (wf_of_commandOf hj).mpr ⟨tid, by tauto⟩⟩
  · rintro ⟨encoding, wf⟩
    obtain ⟨rsv, hi⟩ := encode_eq_command_iff.mp encoding
    obtain ⟨tid, reg⟩ := (wf_of_commandOf hi).mp wf
    exact (decodeCmd_of_command rsv hi).trans ((if_neg tid).trans (if_neg (by tauto)))

end Checks

/-- On both ports, decoding is the inverse of encoding on the well-formed instructions (R42 to R48, R51). -/
theorem decode_eq_ok_iff {q : Request} {i : Instr} : decode q = .ok i ↔ i.encode = q ∧ i.wf = true := by
  cases q with
  | command w => exact decodeCmd_eq_ok_iff
  | mmio x =>
    obtain ⟨we, size, addr, wdata⟩ := x
    constructor
    · intro h
      cases we <;> (cases h; exact ⟨rfl, rfl⟩)
    · rintro ⟨h, -⟩
      cases i <;> cases h <;> rfl

/-- Settles O2: an encoding is that of its instruction. -/
theorem decodeOfEncode : Obligations.DecodeOfEncode := fun _ wf => decode_eq_ok_iff.mpr ⟨rfl, wf⟩

/-- Settles O3: the other direction of the same equivalence. -/
theorem encodeOfDecode : Obligations.EncodeOfDecode := fun _ _ h => decode_eq_ok_iff.mp h

/-- Settles O1: each word is its instruction's encoding, so it decodes to it. -/
theorem workedEncodings : Obligations.WorkedEncodings := by
  refine ⟨fun p hp => ?_, by decide, by decide⟩
  obtain ⟨encoding, wf⟩ : p.1.encode = .command p.2 ∧ p.1.wf = true := by
    revert p
    decide
  exact ⟨encoding, decode_eq_ok_iff.mpr ⟨encoding, wf⟩⟩

end Sys2Proof

namespace Sys2Proof.Machine

/-! ## Requests the decoder rejects -/

/-- A word the decoder rejects is answered with its fault, and changes nothing else (R54, R92, R95). -/
theorem serve_of_decode_error {w : DWord} {f : BlockFault} (h : decode (.command w) = .error f) (s : State) :
    serve (.command w) s = .next (s.raise .command f) := by
  simp only [serve, h, Request.port]

/-- Settles O4: the clauses are the decoder's checks in turn, and the last is how a rejected word is served. -/
theorem decoderCheckOrder : Obligations.DecoderCheckOrder := by
  intro w op tid reg rsv legalOp
  refine ⟨decodeCmd_of_rsv, decodeCmd_of_reserved_op, fun hrsv hop htid => ?_, fun hrsv hop htid hsnap hreg => ?_,
    fun hrsv hop htid hreg => ?_, fun s f h => serve_of_decode_error h s⟩
  all_goals obtain ⟨i, hi⟩ := exists_command hop tid reg (cmdData w)
  · exact (decodeCmd_of_command hrsv hi).trans (if_pos htid)
  · exact (decodeCmd_of_command hrsv hi).trans
      ((if_neg htid).trans (if_pos ⟨hsnap, regOf_eq_none_iff_toNat.mpr hreg⟩))
  · have encoding : i.encode = .command w := encode_eq_command_iff.mpr ⟨hrsv, hi⟩
    have wf : i.wf = true := (wf_of_commandOf hi).mpr
      ⟨htid, hreg.imp_right fun h => regOf_eq_none_iff_toNat.not.mpr (by omega)⟩
    exact ⟨i, decode_eq_ok_iff.mpr ⟨encoding, wf⟩, encoding⟩

/-- Settles O8: the step serves the request, which raises the decoder's fault. -/
theorem stepAnswersIllegalWord : Obligations.StepAnswersIllegalWord := by
  intro s w rest f hq h
  rw [step_of_issues hq, serve_of_decode_error h]
  simp [State.raise, State.issued, faultResponse]

/-! ## Ignored fields (R43) -/

section Legal
variable {tid : BitVec 2} {t : TimerId} (ht : timerOf tid = some t) {reg : BitVec 3} (data : Word) (s : State)
include ht

/-- RD32 of a legal operand answers the register (R58). -/
theorem exec_rd32 {r : RegName} (hr : regOf reg = some r) :
    exec (.rd32 tid reg data) s = .next (s.respondCommand ((s.readReg t r).zeroExtend 64)) :=
  congrArg _ (withTarget_of_some ht hr s _ _)

/-- SNAP64 of a timer starts the FSM, and its ignored fields stand in the word it keeps only (R72, log 8). -/
theorem exec_snap64 :
    exec (.snap64 tid reg data) s = .next { s with
      snap := { s.snap with tid := t, retries := 0, phase := .rdHi1 }
      cmdWord := (Instr.snap64 tid reg data).word } := by
  simp only [exec, execSnap64, State.withTimer, ht]

end Legal

/-- Settles O5: where the operands are legal, no answer but SNAP64's record of its word has an ignored field in it. -/
theorem ignoredFieldsDoNothing : Obligations.IgnoredFieldsDoNothing := by
  intro tid reg reg' d d' size addr s htid
  obtain ⟨t, ht⟩ := exists_timerOf htid
  refine ⟨fun hreg => ?_, fun hreg => ?_, rfl, _, _, exec_snap64 ht d s, exec_snap64 ht d' s, rfl⟩
  · obtain ⟨r, hr⟩ := exists_regOf hreg
    rw [exec_rd32 ht d s hr, exec_rd32 ht d' s hr]
  · obtain ⟨r, hr⟩ := exists_regOf hreg
    rw [exec_zero ht hr d s, exec_zero ht hr d' s]

/-! ## Operands that name no timer or register (R44, R45, R94) -/

theorem withTimer_of_none {tid : BitVec 2} (ht : timerOf tid = none) (s : State) (i : Instr) (k : TimerId → State) :
    s.withTimer i tid k = s.raise .command (.configError i.word) := by
  simp only [State.withTimer, ht]

theorem withTarget_of_no_reg {tid : BitVec 2} {reg : BitVec 3} {t : TimerId} (ht : timerOf tid = some t)
    (hr : regOf reg = none) (s : State) (i : Instr) (k : TimerId → RegName → State) :
    s.withTarget i tid reg k = s.raise .command (.illegalRegister i.word) := by
  simp only [State.withTarget, State.withTimer, ht, hr]

section Commands
variable {tid : BitVec 2} {reg : BitVec 3} {data : Word} {i : Instr}
  (hi : i ∈ [Instr.rd32 tid reg data, .wr32 tid reg data, .setb tid reg data, .clrb tid reg data, .zero tid reg data,
    .snap64 tid reg data])
include hi

/-- Every command but SNAP64 runs on the register its operands name (R43). -/
theorem exec_command_withTarget (s : State) (h : i ≠ .snap64 tid reg data) :
    ∃ k, exec i s = .next (s.withTarget i tid reg k) := by
  simp only [List.mem_cons, List.not_mem_nil, or_false] at hi
  obtain rfl | rfl | rfl | rfl | rfl | rfl := hi
  case inr.inr.inr.inr.inr => exact absurd rfl h
  all_goals exact ⟨_, rfl⟩

/-- Every command runs on the timer its `tid` names (R43). -/
theorem exec_command_withTimer (s : State) : ∃ k, exec i s = .next (s.withTimer i tid k) := by
  by_cases h : i = .snap64 tid reg data
  · subst h
    exact ⟨_, rfl⟩
  · obtain ⟨k, hk⟩ := exec_command_withTarget hi s h
    exact ⟨_, hk⟩

end Commands

/-- Settles O17: each command resolves its `tid` first and then, but for SNAP64, its `reg`. -/
theorem illegalOperandsRaiseFaults : Obligations.IllegalOperandsRaiseFaults := by
  intro tid reg data s i hi
  refine ⟨fun htid => ?_, fun htid hreg hsnap => ?_⟩
  · obtain ⟨k, hk⟩ := exec_command_withTimer hi s
    exact hk.trans (congrArg _ (withTimer_of_none ((timerOf_eq_none tid).mpr htid) s i k))
  · obtain ⟨k, hk⟩ := exec_command_withTarget hi s hsnap
    obtain ⟨t, ht⟩ := exists_timerOf htid
    exact hk.trans (congrArg _ (withTarget_of_no_reg ht (regOf_eq_none_iff_toNat.mpr hreg) s i k))

end Sys2Proof.Machine

/-! What the two ports do with a register (40_register_access.md R57 to R61): a write's effect by what reads back, a read's answer,
and their agreement. -/

namespace Sys2Proof.Machine

/-! ## RD32 and BUS_READ -/

/-- Settles O11: the operands name the register, which the command answers. -/
theorem rd32RespondsWithRegister : Obligations.Rd32RespondsWithRegister := by
  intro tid reg data s t r ht hr
  exact exec_rd32 ht data s hr

/-- BUS_READ at a register's address answers the register (R60). -/
theorem exec_busRead_regAddr {s : State} (h : s.params.legal) (t : TimerId) (r : RegName) (wdata : Word) :
    exec (.busRead .word (regAddr s.params t r) wdata) s = .next (s.respondMmio (s.readReg t r)) :=
  exec_busRead_of_ok wdata (decodeAddr_regAddr h t r)

/-- Settles O19: the address decodes to the register, which the transaction answers. -/
theorem busReadAnswersRegister : Obligations.BusReadAnswersRegister := by
  intro s t r wdata hlegal
  exact exec_busRead_regAddr hlegal t r wdata

/-! ## WR32 and BUS_WRITE -/

section Write
variable {r : RegName} (hr : writable r = true) (s : State) (p : Port) (t : TimerId) (v : Word)
include hr

/-- A write of a control or load register is a store and the load in one step (R12, R57). -/
theorem writeAt_of_writable :
    s.writeAt p t r v = (s.setTimer t (((s.timer t).store r v).applyLoad s.bits)).respond (writeResponse p) := by
  obtain ⟨-, h⟩ | ⟨hf, -⟩ | ⟨hf, -⟩ := writeAt_cases s p t r v
  · exact h
  all_goals cases hr.symm.trans hf

theorem timer_writeAt_self : (s.writeAt p t r v).timer t = ((s.timer t).store r v).applyLoad s.bits := by
  simp [writeAt_of_writable hr]

/-- After such a write `CNT0` is at `LOAD0` where the `LOAD` bit of `CTRL0` is now set, and as before elsewhere (R66). -/
theorem readReg_writeAt_cnt0 :
    (s.writeAt p t r v).readReg t .cnt0 =
      if s.bits.isLoad ((s.writeAt p t r v).readReg t .ctrl0) then (s.writeAt p t r v).readReg t .load0
      else s.readReg t .cnt0 := by
  obtain ⟨kept, -⟩ := store_counters_of_writable hr (s.timer t) v
  simp [State.readReg, timer_writeAt_self hr, TimerRegs.reg, kept]

/-- After such a write `CNT1` is at `LOAD1` where the `LOAD` bit of `CTRL1` is now set, and as before elsewhere (R66). -/
theorem readReg_writeAt_cnt1 :
    (s.writeAt p t r v).readReg t .cnt1 =
      if s.bits.isLoad ((s.writeAt p t r v).readReg t .ctrl1) then (s.writeAt p t r v).readReg t .load1
      else s.readReg t .cnt1 := by
  obtain ⟨-, kept⟩ := store_counters_of_writable hr (s.timer t) v
  simp [State.readReg, timer_writeAt_self hr, TimerRegs.reg, kept]

/-- The effect of a write of a control or load register, at either port, by what reads back (R57, R66). -/
theorem registerWritten_writeAt : RegisterWritten s (s.writeAt p t r v) t r v (writeResponse p) := by
  refine ⟨?frame, fun t' ht' => ?otherTimer, readReg_writeAt_self s p t v hr, fun r' hne hc0 hc1 => ?otherRegister,
    readReg_writeAt_cnt0 hr s p t v, readReg_writeAt_cnt1 hr s p t v⟩
  case frame =>
    rw [writeAt_of_writable hr]
    rfl
  case otherTimer => simp [writeAt_of_writable hr, ht']
  case otherRegister =>
    exact readReg_writeAt_of_ne s p t r v (fun _ => hne) (fun _ h => absurd h hc0) (fun _ h => absurd h hc1)

end Write

/-- Settles O12: WR32 is a write at the command port. -/
theorem wr32WritesRegister : Obligations.Wr32WritesRegister := by
  intro tid reg data s t r ht hr hc0 hc1
  exact ⟨_, exec_wr32 ht hr data s, registerWritten_writeAt (writable_iff.mpr ⟨hc0, hc1⟩) s .command t data⟩

/-- Settles O20: BUS_WRITE at a register's address is a write at the MMIO port. -/
theorem busWriteWritesRegister : Obligations.BusWriteWritesRegister := by
  intro s t r wdata hlegal hc0 hc1
  exact ⟨_, exec_busWrite_regAddr hlegal t r wdata, registerWritten_writeAt (writable_iff.mpr ⟨hc0, hc1⟩) s .mmio t wdata⟩

/-! ## The two ports -/

/-- A write's outcome, its fault included, is the same at both ports but for the form of the response (R57). -/
theorem writeAt_command_eq_mmio (s : State) (t : TimerId) (r : RegName) (v : Word) :
    { s.writeAt .command t r v with responses := s.responses } =
      { s.writeAt .mmio t r v with responses := s.responses } := by
  unfold State.writeAt
  cases s.writeReg t r v with
  | error f => rfl
  | ok s' => rfl

/-- Settles O24: both writes are a `writeAt` and both reads answer `readReg`, each in the form of its port. -/
theorem portsAgree : Obligations.PortsAgree := by
  intro s t r v hlegal addr
  have ht := timerOf_bits t
  have hr := regOf_bits r
  exact ⟨⟨_, _, exec_wr32 ht hr v s, exec_busWrite_regAddr hlegal t r v, writeAt_command_eq_mmio s t r v⟩,
    ⟨s.readReg t r, exec_rd32 ht v s hr, exec_busRead_regAddr hlegal t r v⟩⟩

end Sys2Proof.Machine

/-! The control encoder's three commands (41_control_encoder.md R62 to R66, R71): the word each makes, bit by bit, and which of
them leave the counters as they are. -/

namespace Sys2Proof.Machine

/-! ## The encoder bit by bit -/

/-- SETB's word: 1 where the mask has it, and passed through elsewhere (R63). -/
theorem getLsbD_encodeBits_set (old mask : Word) (i : Nat) :
    (encodeBits .set old mask).getLsbD i = if mask.getLsbD i then true else old.getLsbD i := by
  rw [encodeBits, BitVec.getLsbD_or]
  cases mask.getLsbD i <;> simp

/-- CLRB's word: 0 where the mask has it, and passed through elsewhere (R64). -/
theorem getLsbD_encodeBits_clr (old mask : Word) (i : Nat) :
    (encodeBits .clr old mask).getLsbD i = if mask.getLsbD i then false else old.getLsbD i := by
  rw [encodeBits, BitVec.getLsbD_and, BitVec.getLsbD_not]
  by_cases hi : i < 32
  · cases mask.getLsbD i <;> simp [hi]
  · simp [BitVec.getLsbD_of_ge old i (by omega)]

/-- Settles O13: SETB is a write of the encoder's word. -/
theorem setbSetsMaskBits : Obligations.SetbSetsMaskBits := by
  intro tid reg mask s t r ht hr hc0 hc1
  exact ⟨_, _, exec_setb ht hr mask s, registerWritten_writeAt (writable_iff.mpr ⟨hc0, hc1⟩) s .command t _,
    getLsbD_encodeBits_set _ mask⟩

/-- Settles O14: CLRB is a write of the encoder's word. -/
theorem clrbClearsMaskBits : Obligations.ClrbClearsMaskBits := by
  intro tid reg mask s t r ht hr hc0 hc1
  exact ⟨_, _, exec_clrb ht hr mask s, registerWritten_writeAt (writable_iff.mpr ⟨hc0, hc1⟩) s .command t _,
    getLsbD_encodeBits_clr _ mask⟩

/-- Settles O15: ZERO is a write of zero. -/
theorem zeroClearsRegister : Obligations.ZeroClearsRegister := by
  intro tid reg data s t r ht hr hc0 hc1
  exact ⟨_, exec_zero ht hr data s, registerWritten_writeAt (writable_iff.mpr ⟨hc0, hc1⟩) s .command t 0⟩

/-! ## The enable bit -/

section EnableBit
variable {b : BitPositions} (hb : legalBits b) (c : Word)
include hb

/-- `ENT` has its one bit, at a position of its own (R10). -/
theorem getLsbD_maskEnt (i : Nat) : b.maskEnt.getLsbD i = decide (i = b.ent) := by
  obtain ⟨-, below⟩ := hb
  exact getLsbD_mask (below b.ent (by simp)) i

theorem isLoad_maskEnt : b.isLoad b.maskEnt = false := by
  have ⟨distinct, _⟩ := hb
  simp only [List.nodup_cons, List.mem_cons, not_or] at distinct
  obtain ⟨-, ⟨hne, -⟩, -⟩ := distinct
  rw [BitPositions.isLoad, getLsbD_maskEnt hb]
  exact decide_eq_false hne

theorem isLoad_set_maskEnt : b.isLoad (encodeBits .set c b.maskEnt) = b.isLoad c :=
  (getLsbD_encodeBits_set c _ _).trans (if_neg (Bool.eq_false_iff.mp (isLoad_maskEnt hb)))

theorem isLoad_clr_maskEnt : b.isLoad (encodeBits .clr c b.maskEnt) = b.isLoad c :=
  (getLsbD_encodeBits_clr c _ _).trans (if_neg (Bool.eq_false_iff.mp (isLoad_maskEnt hb)))

/-- Setting a set enable bit changes nothing (R71). -/
theorem set_maskEnt_of_enabled {c : Word} (h : b.isEnabled c = true) : encodeBits .set c b.maskEnt = c := by
  refine BitVec.eq_of_getLsbD_eq fun i _ => ?_
  rw [getLsbD_encodeBits_set, getLsbD_maskEnt hb]
  by_cases hi : i = b.ent
  · subst hi
    simpa [BitPositions.isEnabled] using h.symm
  · simp [hi]

/-- Clearing a clear enable bit changes nothing (R71). -/
theorem clr_maskEnt_of_disabled {c : Word} (h : b.isEnabled c = false) : encodeBits .clr c b.maskEnt = c := by
  refine BitVec.eq_of_getLsbD_eq fun i _ => ?_
  rw [getLsbD_encodeBits_clr, getLsbD_maskEnt hb]
  by_cases hi : i = b.ent
  · subst hi
    simpa [BitPositions.isEnabled] using h.symm
  · simp [hi]

end EnableBit

/-! ## Writes of a control register that keep its `LOAD` bit -/

theorem loadInv_iff {s : State} : s.LoadInv ↔ ∀ t, (s.timer t).LoadHeld s.bits := by
  refine ⟨fun ⟨h0, h1, h2⟩ t => ?_, fun h => ⟨h .t0, h .t1, h .t2⟩⟩
  cases t
  · exact h0
  · exact h1
  · exact h2

section KeepsLoadBit
variable {s : State} {t : TimerId} {v : Word} (held : (s.timer t).LoadHeld s.bits)
  (hv : s.bits.isLoad v = s.bits.isLoad (s.timer t).ctrl0)
include held hv

/-- The load that follows such a write moves nothing: it is a plain store (R66). -/
theorem timer_writeAt_ctrl0 (p : Port) : (s.writeAt p t .ctrl0 v).timer t = (s.timer t).store .ctrl0 v := by
  have stored : ((s.timer t).store .ctrl0 v).LoadHeld s.bits := by
    obtain ⟨h0, h1⟩ := held
    exact ⟨fun h => h0 (hv.symm.trans h), h1⟩
  rw [timer_writeAt_self rfl, applyLoad_of_held s.bits stored]

theorem counters_writeAt_ctrl0 (p : Port) :
    ((s.writeAt p t .ctrl0 v).timer t).cnt0 = (s.timer t).cnt0 ∧
      ((s.writeAt p t .ctrl0 v).timer t).cnt1 = (s.timer t).cnt1 := by
  rw [timer_writeAt_ctrl0 held hv]
  exact ⟨rfl, rfl⟩

end KeepsLoadBit

/-- Writing a control word over itself changes no register of any timer. -/
theorem timers_writeAt_ctrl0_self {s : State} {t : TimerId} (held : (s.timer t).LoadHeld s.bits) (p : Port) :
    (s.writeAt p t .ctrl0 (s.timer t).ctrl0).timers = s.timers := by
  refine PerTimer.ext_get fun t' => ?_
  by_cases ht : t' = t
  · subst ht
    exact timer_writeAt_ctrl0 held rfl p
  · simp [writeAt_of_writable (r := .ctrl0) rfl, ht]

/-- A write moves no counter of a timer whose `LOAD` bits are both clear after it (R66). -/
theorem counters_writeAt_of_no_load {s : State} {p : Port} {t : TimerId} {r : RegName} {v : Word}
    (h0 : s.bits.isLoad ((s.writeAt p t r v).timer t).ctrl0 = false)
    (h1 : s.bits.isLoad ((s.writeAt p t r v).timer t).ctrl1 = false) :
    ((s.writeAt p t r v).timer t).cnt0 = (s.timer t).cnt0 ∧ ((s.writeAt p t r v).timer t).cnt1 = (s.timer t).cnt1 := by
  obtain ⟨cnt0, cnt1⟩ := (effect_writeAt (.wr32 0 0 0) s p t r v).countersKeptOrLoaded t
  refine ⟨cnt0.resolve_right ?_, cnt1.resolve_right ?_⟩
  · simp [h0]
  · simp [h1]

/-- Settles O35: each command is a write of a word whose `LOAD` bit is that of the old one, of the old word itself, or of one
that leaves no `LOAD` bit set. -/
theorem encoderLeavesCounters : Obligations.EncoderLeavesCounters := by
  intro tid t s ht hbits
  have ctrl0 : regOf 0 = some .ctrl0 := rfl
  refine ⟨fun inv i hi => ?enableBit, fun reg r mask hr i hi => ?anyMask, fun inv hen => ?start, fun inv hen => ?stop⟩
  case enableBit =>
    have held := loadInv_iff.mp inv t
    simp only [List.mem_cons, List.not_mem_nil, or_false] at hi
    obtain rfl | rfl := hi
    · exact ⟨_, exec_setb ht ctrl0 _ s, counters_writeAt_ctrl0 held (isLoad_set_maskEnt hbits _) _⟩
    · exact ⟨_, exec_clrb ht ctrl0 _ s, counters_writeAt_ctrl0 held (isLoad_clr_maskEnt hbits _) _⟩
  case anyMask =>
    have writes : i ∈ [Instr.wr32 tid reg mask, .setb tid reg mask, .clrb tid reg mask, .zero tid reg mask] := by
      simp only [List.mem_cons, List.not_mem_nil, or_false] at hi ⊢
      tauto
    obtain ⟨v, he⟩ := exec_writeCommand ht hr mask s writes
    exact ⟨_, he, counters_writeAt_of_no_load⟩
  case start =>
    refine ⟨_, exec_setb ht ctrl0 _ s, ?_⟩
    have same : encodeBits .set (s.readReg t .ctrl0) s.bits.maskEnt = (s.timer t).ctrl0 := set_maskEnt_of_enabled hbits hen
    rw [same]
    exact timers_writeAt_ctrl0_self (loadInv_iff.mp inv t) _
  case stop =>
    refine ⟨_, exec_clrb ht ctrl0 _ s, ?_⟩
    have same : encodeBits .clr (s.readReg t .ctrl0) s.bits.maskEnt = (s.timer t).ctrl0 := clr_maskEnt_of_disabled hbits hen
    rw [same]
    exact timers_writeAt_ctrl0_self (loadInv_iff.mp inv t) _

end Sys2Proof.Machine

/-! The invariant of every step (41_control_encoder.md R66, 00_scope.md R10, 20_memory.md R29 and R39): each part of it, agent
by agent. -/

namespace Sys2Proof.Machine

/-! ## RST -/

section Rst
variable (s : State)

@[simp] theorem State.rst_timers : s.rst.timers = ⟨.zero, .zero, .zero⟩ := by
  unfold State.rst
  dsimp only
  split <;> rfl
@[simp] theorem State.rst_shadow : s.rst.shadow = ⟨0, 0, 0⟩ := by
  unfold State.rst
  dsimp only
  split <;> rfl
@[simp] theorem State.rst_snap : s.rst.snap = .reset := by
  unfold State.rst
  dsimp only
  split <;> rfl
@[simp] theorem State.rst_cmdWord : s.rst.cmdWord = 0 := by
  unfold State.rst
  dsimp only
  split <;> rfl

@[simp] theorem State.rst_timer (t : TimerId) : s.rst.timer t = .zero := by
  rw [State.timer_def, State.rst_timers]
  cases t <;> rfl

end Rst

/-! ## The load invariant (R66) -/

theorem loadHeld_zero (b : BitPositions) : TimerRegs.zero.LoadHeld b := ⟨fun _ => rfl, fun _ => rfl⟩

/-- A register write ends in the load, and no other effect of an instruction reaches a register. -/
theorem Effect.loadInv {i : Instr} {s s' : State} (h : Effect i s s') (inv : s.LoadInv) : s'.LoadInv := by
  obtain ⟨a, rfl⟩ | ⟨p, f, rfl, -⟩ | ⟨t, r, v, a, -, rfl⟩ | ⟨tid, reg, data, t, -, -, rfl⟩ := h
  · exact inv
  · exact inv
  · rw [loadInv_iff] at inv ⊢
    intro t'
    rw [State.respond_timer, State.respond_bits, State.setTimer_bits, State.setTimer_timer]
    split
    · exact applyLoad_held s.bits _
    · exact inv t'
  · exact inv

theorem hostTurn_loadInv {s s' : State} (h : hostTurn s = .next s') (inv : s.LoadInv) : s'.LoadInv := by
  obtain rfl | ⟨rest, p, f, rfl⟩ | ⟨rest, i, he⟩ := hostTurn_next_cases h
  · exact inv
  · exact inv
  · exact he.loadInv inv

theorem loadInv_of_timers_eq {s s' : State} (hp : s'.params = s.params) (ht : s'.timers = s.timers) (inv : s.LoadInv) :
    s'.LoadInv := by
  rw [loadInv_iff] at inv ⊢
  intro t
  rw [State.timer_def, ht, State.bits_def, hp]
  exact inv t

theorem step_loadInv {s s' : State} (h : step s = .next s') (inv : s.LoadInv) : s'.LoadInv := by
  have taken : s.takeTurn.LoadInv := loadInv_of_timers_eq s.takeTurn_params s.takeTurn_timers inv
  obtain ⟨-, h⟩ | ⟨-, rfl⟩ | ⟨-, rfl⟩ | ⟨-, rfl⟩ := step_next_cases h
  · exact hostTurn_loadInv h taken
  · refine loadInv_iff.mpr fun t => ?_
    rw [State.tick_timer]
    exact tick_held _ _
  · obtain ⟨params, -⟩ := faultMarkGrows_snapStep s.takeTurn
    exact loadInv_of_timers_eq params s.takeTurn.snapStep_timers taken
  · refine loadInv_iff.mpr fun t => ?_
    rw [State.rst_timer]
    exact loadHeld_zero _

/-! ## The command word of an idle FSM (R39, log 8) -/

/-- An idle FSM keeps no command word. -/
def IdleKeepsNoCommand (s : State) : Prop := s.snap.phase = .idle → s.cmdWord = 0

theorem idleKeepsNoCommand_of_not_idle {s : State} (h : s.snap.phase ≠ .idle) : IdleKeepsNoCommand s :=
  fun idle => absurd idle h

theorem idleKeepsNoCommand_congr {s s' : State} (hs : s'.snap = s.snap) (hc : s'.cmdWord = s.cmdWord) :
    IdleKeepsNoCommand s' ↔ IdleKeepsNoCommand s := by
  rw [IdleKeepsNoCommand, hs, hc, IdleKeepsNoCommand]

/-- Of an instruction's effects only SNAP64's acceptance reaches the FSM, and it leaves the FSM busy. -/
theorem Effect.idleKeepsNoCommand {i : Instr} {s s' : State} (h : Effect i s s') (inv : IdleKeepsNoCommand s) :
    IdleKeepsNoCommand s' := by
  obtain ⟨a, rfl⟩ | ⟨p, f, rfl, -⟩ | ⟨t, r, v, a, -, rfl⟩ | ⟨tid, reg, data, t, -, -, rfl⟩ := h
  · exact inv
  · exact inv
  · exact inv
  · exact idleKeepsNoCommand_of_not_idle SnapPhase.noConfusion

theorem hostTurn_idleKeepsNoCommand {s s' : State} (h : hostTurn s = .next s') (inv : IdleKeepsNoCommand s) :
    IdleKeepsNoCommand s' := by
  obtain rfl | ⟨rest, p, f, rfl⟩ | ⟨rest, i, he⟩ := hostTurn_next_cases h
  · exact inv
  · exact inv
  · exact he.idleKeepsNoCommand inv

/-- A SNAP step that returns the FSM to IDLE forgets the command (R78). -/
theorem snapStep_idleKeepsNoCommand {s : State} (inv : IdleKeepsNoCommand s) : IdleKeepsNoCommand s.snapStep := by
  obtain ⟨-, h⟩ | ⟨-, h⟩ | ⟨-, h⟩ | ⟨-, h⟩ | ⟨-, -, h⟩ | ⟨-, -, h⟩ := snapStep_phase s <;> rw [h]
  · exact inv
  · exact idleKeepsNoCommand_of_not_idle SnapPhase.noConfusion
  · exact idleKeepsNoCommand_of_not_idle SnapPhase.noConfusion
  · exact idleKeepsNoCommand_of_not_idle SnapPhase.noConfusion
  · exact fun _ => rfl
  · obtain ⟨-, h⟩ | ⟨-, h⟩ := retrySnapshot_cases s <;> rw [h]
    · exact fun _ => rfl
    · exact idleKeepsNoCommand_of_not_idle SnapPhase.noConfusion

theorem step_idleKeepsNoCommand {s s' : State} (h : step s = .next s') (inv : IdleKeepsNoCommand s) :
    IdleKeepsNoCommand s' := by
  have taken := (idleKeepsNoCommand_congr s.takeTurn_snap s.takeTurn_cmdWord).mpr inv
  obtain ⟨-, h⟩ | ⟨-, rfl⟩ | ⟨-, rfl⟩ | ⟨-, rfl⟩ := step_next_cases h
  · exact hostTurn_idleKeepsNoCommand h taken
  · exact taken
  · exact snapStep_idleKeepsNoCommand taken
  · exact fun _ => State.rst_cmdWord _

/-- Settles O25: the parameters stay, and each other part of the invariant is kept by each agent. -/
theorem stepKeepsInvariant : Obligations.StepKeepsInvariant := by
  intro s s' ⟨legal, load, idle⟩ h
  obtain ⟨params, -⟩ := faultMarkOnlyGrows s s' h
  exact ⟨params ▸ legal, step_loadInv h load, step_idleKeepsNoCommand h idle⟩

end Sys2Proof.Machine

/-! Counting (41_control_encoder.md R67 to R70): the tick of a timer by mode, and the 64-bit counter in cascade mode. -/

namespace Sys2Proof.Machine

/-! ## The tick of a half and of a timer -/

section Tick
variable {b : BitPositions} {T : TimerRegs}

/-- `CNT0` is governed by `CTRL0` in both modes (R68, R69). -/
theorem tick_cnt0 : (T.tick b).cnt0 = tickHalf b T.ctrl0 T.load0 T.cnt0 := rfl

theorem tick_cnt1_of_cascade (h : b.isCascade T.ctrl0 = true) :
    (T.tick b).cnt1 =
      if b.isLoad T.ctrl1 then T.load1 else if carries b T.ctrl0 T.cnt0 then count b T.ctrl0 T.cnt1 else T.cnt1 :=
  if_pos h

theorem tick_cnt1_of_independent (h : b.isCascade T.ctrl0 = false) :
    (T.tick b).cnt1 = tickHalf b T.ctrl1 T.load1 T.cnt1 :=
  if_neg (Bool.eq_false_iff.mp h)

end Tick

/-- Settles O31: the step is the TICK agent's turn, and a timer's tick computes its two counters only. -/
theorem tickAdvancesAllTimers : Obligations.TickAdvancesAllTimers := by
  intro s ha
  refine ⟨?_, fun T => rfl⟩
  rw [step_of_turn ha, runTurn, State.tick, State.takeTurn_timers, State.takeTurn_bits]
  rfl

/-- The clauses of R68's pseudocode for `CNT0`, in its order. -/
theorem tickHalf_eq (b : BitPositions) (c load v : Word) :
    tickHalf b c load v =
      if b.isLoad c then load
      else if b.isEnabled c && !b.isDown c then v + 1
      else if b.isEnabled c && b.isDown c then v - 1
      else v := by
  unfold tickHalf count
  cases b.isEnabled c
  · simp
  · cases b.isDown c <;> simp

/-- The clauses of R68's pseudocode for the carry into `CNT1` and the borrow from it, in its order. -/
theorem carry_count_eq (b : BitPositions) (c lo hi : Word) :
    (if carries b c lo then count b c hi else hi) =
      if !b.isLoad c && b.isEnabled c && !b.isDown c && (lo == 0xFFFF_FFFF) then hi + 1
      else if !b.isLoad c && b.isEnabled c && b.isDown c && (lo == 0) then hi - 1
      else hi := by
  unfold carries count
  cases b.isDown c <;> simp

/-- Settles O32: both halves clause by clause; the tick reads `CTRL1` through its `LOAD` bit only. -/
theorem cascadeTickRule : Obligations.CascadeTickRule := by
  intro b T hcasc load0 en down
  refine ⟨tickHalf_eq b T.ctrl0 T.load0 T.cnt0, ?_, fun c hc => ⟨rfl, ?_⟩⟩
  · rw [tick_cnt1_of_cascade hcasc, carry_count_eq]
    rfl
  · have hc' : b.isLoad c = b.isLoad T.ctrl1 := hc
    rw [tick_cnt1_of_cascade hcasc, tick_cnt1_of_cascade (T := { T with ctrl1 := c }) hcasc, hc']

/-- Settles O33: each half is a `tickHalf` of its own control word. -/
theorem independentTickRule : Obligations.IndependentTickRule := by
  intro b T hcasc half
  exact ⟨tick_cnt0, tick_cnt1_of_independent hcasc⟩

/-! ## The 64-bit counter -/

theorem toNat_append_word (hi lo : Word) : (hi ++ lo : DWord).toNat = hi.toNat * 2 ^ 32 + lo.toNat := by
  rw [BitVec.toNat_append, ← Nat.shiftLeft_add_eq_or_of_lt lo.isLt, Nat.shiftLeft_eq]

/-- A pair of words counts up in its low word, and in its high word where the low one wraps from all ones. -/
theorem append_add_one (hi lo : Word) :
    (hi ++ lo : DWord) + 1 = (if lo = 0xFFFF_FFFF then hi + 1 else hi) ++ (lo + 1) := by
  apply BitVec.eq_of_toNat_eq
  rw [BitVec.toNat_add, toNat_append_word, toNat_append_word]
  split <;> bv_omega

/-- A pair of words counts down in its low word, and in its high word where the low one wraps from zero. -/
theorem append_sub_one (hi lo : Word) :
    (hi ++ lo : DWord) - 1 = (if lo = 0 then hi - 1 else hi) ++ (lo - 1) := by
  apply BitVec.eq_of_toNat_eq
  rw [BitVec.toNat_sub, toNat_append_word, toNat_append_word]
  split <;> bv_omega

/-- A counting half without `LOAD` carries exactly where its word wraps in its direction (R68). -/
theorem carries_iff {b : BitPositions} {c lo : Word} :
    carries b c lo = true ↔
      b.isLoad c = false ∧ b.isEnabled c = true ∧ lo = if b.isDown c then 0 else 0xFFFF_FFFF := by
  cases h : b.isDown c <;> simp [carries, h, and_assoc]

section Cascade
variable {b : BitPositions} {T : TimerRegs} (hcasc : b.isCascade T.ctrl0 = true) (hload0 : b.isLoad T.ctrl0 = false)
  (hload1 : b.isLoad T.ctrl1 = false)
include hcasc hload1

theorem tick_cnt1_of_no_load :
    (T.tick b).cnt1 = if carries b T.ctrl0 T.cnt0 then count b T.ctrl0 T.cnt1 else T.cnt1 := by
  rw [tick_cnt1_of_cascade hcasc, hload1]
  rfl

/-- `CNT1` moves only where `CNT0` wraps (R70). -/
theorem carries_of_tick_cnt1_ne (h : (T.tick b).cnt1 ≠ T.cnt1) : carries b T.ctrl0 T.cnt0 = true := by
  by_contra hc
  exact h ((tick_cnt1_of_no_load hcasc hload1).trans (if_neg hc))

include hload0

theorem tick_counter_of_stopped (hen : b.isEnabled T.ctrl0 = false) : (T.tick b).counter = T.counter := by
  rw [TimerRegs.counter, tick_cnt1_of_no_load hcasc hload1, tick_cnt0]
  simp [carries, tickHalf, TimerRegs.counter, hload0, hen]

variable (hen : b.isEnabled T.ctrl0 = true)
include hen

theorem tick_counter_up (hup : b.isDown T.ctrl0 = false) : (T.tick b).counter = T.counter + 1 := by
  have low : (T.tick b).cnt0 = T.cnt0 + 1 := by simp [tick_cnt0, tickHalf, count, hload0, hen, hup]
  have high : (T.tick b).cnt1 = if T.cnt0 = 0xFFFF_FFFF then T.cnt1 + 1 else T.cnt1 := by
    simp [tick_cnt1_of_no_load hcasc hload1, carries, count, hload0, hen, hup]
  rw [TimerRegs.counter, low, high, ← append_add_one, TimerRegs.counter]

theorem tick_counter_down (hdown : b.isDown T.ctrl0 = true) : (T.tick b).counter = T.counter - 1 := by
  have low : (T.tick b).cnt0 = T.cnt0 - 1 := by simp [tick_cnt0, tickHalf, count, hload0, hen, hdown]
  have high : (T.tick b).cnt1 = if T.cnt0 = 0 then T.cnt1 - 1 else T.cnt1 := by
    simp [tick_cnt1_of_no_load hcasc hload1, carries, count, hload0, hen, hdown]
  rw [TimerRegs.counter, low, high, ← append_sub_one, TimerRegs.counter]

/-- A tick moves no control word, so one that counts up goes on counting up. -/
theorem ticks_counter_up (hup : b.isDown T.ctrl0 = false) (k : Nat) :
    (T.ticks b k).counter = T.counter + BitVec.ofNat 64 k := by
  induction k generalizing T with
  | zero => simp [TimerRegs.ticks]
  | succ k ih =>
    calc (T.ticks b (k + 1)).counter
        = (T.tick b).counter + BitVec.ofNat 64 k := ih hcasc hload0 hload1 hen hup
      _ = T.counter + 1 + BitVec.ofNat 64 k := by rw [tick_counter_up hcasc hload0 hload1 hen hup]
      _ = T.counter + BitVec.ofNat 64 (k + 1) := by
        rw [BitVec.ofNat_add, BitVec.add_assoc, BitVec.add_comm 1]
        rfl

end Cascade

/-- Settles O34: one tick by direction, and the last two laws from counting up. -/
theorem cascadeCounterLaws : Obligations.CascadeCounterLaws := by
  intro b T hcasc hload0 hload1
  refine ⟨tick_counter_up hcasc hload0 hload1, tick_counter_down hcasc hload0 hload1,
    tick_counter_of_stopped hcasc hload0 hload1, fun hmoved => ?wraps, fun hen hup hzero k => ?fromZero,
    fun hen hup htop => ?top⟩
  case wraps =>
    obtain ⟨-, wraps⟩ := carries_iff.mp (carries_of_tick_cnt1_ne hcasc hload1 hmoved)
    exact wraps
  case fromZero =>
    rw [ticks_counter_up hcasc hload0 hload1 hen hup, hzero]
    exact BitVec.zero_add _
  case top =>
    rw [tick_counter_up hcasc hload0 hload1 hen hup, htop]
    rfl

end Sys2Proof.Machine

/-! The snapshot unit (42_counter_reader.md): the double-read FSM step by step, and its edges in full (R72 to R78). -/

namespace Sys2Proof.Machine

/-! ## The steps of the FSM (R72 to R77) -/

section Steps
variable {s : State}

theorem snapStep_of_idle (h : s.snap.phase = .idle) : s.snapStep = s := by
  simp only [State.snapStep, h]

theorem snapStep_of_rdHi1 (h : s.snap.phase = .rdHi1) :
    s.snapStep = { s with snap := { s.snap with hi1 := (s.timer s.snap.tid).cnt1, phase := .rdLo } } := by
  simp only [State.snapStep, h]
  rfl

theorem snapStep_of_rdLo (h : s.snap.phase = .rdLo) :
    s.snapStep = { s with snap := { s.snap with lo := (s.timer s.snap.tid).cnt0, phase := .rdHi2 } } := by
  simp only [State.snapStep, h]
  rfl

theorem snapStep_of_rdHi2 (h : s.snap.phase = .rdHi2) :
    s.snapStep = { s with snap := { s.snap with hi2 := (s.timer s.snap.tid).cnt1, phase := .cmp } } := by
  simp only [State.snapStep, h]
  rfl

theorem snapStep_of_cmp (h : s.snap.phase = .cmp) :
    s.snapStep = if s.snap.hi1 = s.snap.hi2 then s.acceptSnapshot else s.retrySnapshot := by
  simp only [State.snapStep, h]

/-- A step of the SNAP agent is `snapStep` with the turn taken (00_scope.md R7). -/
theorem step_of_snap_turn (h : s.nextTurn = .snap) : step s = .next s.takeTurn.snapStep := step_of_turn h

@[simp] theorem State.acceptSnapshot_snap : s.acceptSnapshot.snap = { s.snap with phase := .idle } := rfl

theorem retrySnapshot_of_cap (h : s.params.maxRetries = some s.snap.retries) :
    s.retrySnapshot = s.endSnapshot.raise .command (.retryLimit s.snap.tid s.snap.retries) := if_pos h

theorem retrySnapshot_of_no_cap (h : s.params.maxRetries ≠ some s.snap.retries) :
    s.retrySnapshot = { s with snap := { s.snap with retries := s.snap.retries + 1, phase := .rdHi1 } } := if_neg h

end Steps

/-- The latch as the spec writes it, "(upper << 32) | lower" (R76). -/
theorem append_eq_shiftLeft_or (hi lo : Word) : (hi ++ lo : DWord) = hi.zeroExtend 64 <<< 32 ||| lo.zeroExtend 64 :=
  byteAndCounterOrder.2 { TimerRegs.zero with cnt1 := hi, cnt0 := lo }

/-- Settles O36 by the meaning of SNAP64 at a timer, which is the claimed state itself. -/
theorem snap64StartsFsm : Obligations.Snap64StartsFsm := fun _ _ data s _ ht => ⟨_, exec_snap64 ht data s, rfl, rfl⟩

/-- Settles O37: each phase by its step. -/
theorem snapReadingSteps : Obligations.SnapReadingSteps := by
  intro s ha
  rw [step_of_snap_turn ha]
  refine ⟨fun hp => ?_, fun hp => ?_, fun hp => ?_⟩ <;> rw [← s.takeTurn_snap] at hp
  · simp [snapStep_of_rdHi1 hp, State.timer_def]
  · simp [snapStep_of_rdLo hp, State.timer_def]
  · simp [snapStep_of_rdHi2 hp, State.timer_def]

/-- Settles O38: the step is `acceptSnapshot`. -/
theorem cmpAcceptsEqualReadings : Obligations.CmpAcceptsEqualReadings := by
  intro s ha hp heq
  have accept : s.takeTurn.snapStep = s.takeTurn.acceptSnapshot := by
    rw [snapStep_of_cmp (by simpa using hp), if_pos (by simpa using heq)]
  refine ⟨_, (step_of_snap_turn ha).trans (congrArg _ accept), ?_, rfl, ?_, ?_, fun t => ?_, ?_⟩
  · simp
  · simp
  · simp
  · simp [append_eq_shiftLeft_or]
  · simp [statusOk]

/-- Settles O39: the step is `retrySnapshot`. -/
theorem cmpRetriesUnequalReadings : Obligations.CmpRetriesUnequalReadings := by
  intro s ha hp hne
  have retry : s.takeTurn.snapStep = s.takeTurn.retrySnapshot := by
    rw [snapStep_of_cmp (by simpa using hp), if_neg (by simpa using hne)]
  rw [step_of_snap_turn ha, retry]
  refine ⟨fun hcap => ⟨_, rfl, ?_⟩, fun hcap => ?_⟩
  · rw [retrySnapshot_of_cap (by simpa using hcap)]
    simp [faultResponse, faultCode]
  · rw [retrySnapshot_of_no_cap (by simpa using hcap), State.takeTurn_snap]

/-! ## The edges of the FSM (R78) -/

/-- Of an instruction's effects only the acceptance of SNAP64 moves the FSM. -/
theorem Effect.snap_phase_cases {i : Instr} {s s' : State} (h : Effect i s s') :
    s'.snap.phase = s.snap.phase ∨
    (s'.snap.phase = .rdHi1 ∧ ∃ tid reg data, i = .snap64 tid reg data ∧ tid ≠ 3) := by
  obtain ⟨a, rfl⟩ | ⟨p, f, rfl, -⟩ | ⟨t, r, v, a, -, rfl⟩ | ⟨tid, reg, data, t, rfl, ht, rfl⟩ := h
  · exact .inl rfl
  · exact .inl rfl
  · exact .inl rfl
  · refine .inr ⟨rfl, tid, reg, data, rfl, fun h3 => ?_⟩
    rw [(timerOf_eq_none tid).mpr h3] at ht
    cases ht

/-- The HOST's turn moves the FSM only where it accepts a SNAP64 at a free port. -/
theorem hostTurn_snap_phase_cases {s s' : State} (h : hostTurn s = .next s') :
    s'.snap.phase = s.snap.phase ∨
    (s.snap.phase = .idle ∧ s'.snap.phase = .rdHi1 ∧
      ∃ tid reg data rest, s.pending = (Instr.snap64 tid reg data).encode :: rest ∧ tid ≠ 3) := by
  obtain ⟨h1, -⟩ | ⟨q, rest, f, -, -, -, h1⟩ | ⟨q, rest, i, s1, hfree, hq, hd, h1, effect⟩ := hostTurn_cases s
  · exact .inl (by rw [Host.Outcome.next.inj (h.symm.trans h1)])
  · exact .inl (by rw [Host.Outcome.next.inj (h.symm.trans h1)]; rfl)
  · obtain rfl := Host.Outcome.next.inj (h.symm.trans h1)
    have idle : s.snap.phase = .idle := by simpa [State.busy] using hfree
    obtain keep | ⟨started, tid, reg, data, rfl, htid⟩ := effect.snap_phase_cases
    · exact .inl keep
    · obtain ⟨rfl, -⟩ := decode_eq_ok_iff.mp hd
      exact .inr ⟨idle, started, tid, reg, data, rest, hq, htid⟩

/-- The edges a SNAP step takes: the three reads, and the three outcomes of CMP with their responses. -/
theorem snapStep_edges {s : State} (hp : s.snap.phase ≠ .idle) :
    (s.snap.phase = .rdHi1 ∧ s.snapStep.snap.phase = .rdLo) ∨
    (s.snap.phase = .rdLo ∧ s.snapStep.snap.phase = .rdHi2) ∨
    (s.snap.phase = .rdHi2 ∧ s.snapStep.snap.phase = .cmp) ∨
    (s.snap.phase = .cmp ∧ s.snap.hi1 = s.snap.hi2 ∧ s.snapStep.snap.phase = .idle ∧
      ∃ v, s.snapStep.responses = .command 0 v :: s.responses) ∨
    (s.snap.phase = .cmp ∧ s.snap.hi1 ≠ s.snap.hi2 ∧ s.params.maxRetries ≠ some s.snap.retries ∧
      s.snapStep.snap.phase = .rdHi1 ∧ s.snapStep.responses = s.responses) ∨
    (s.snap.phase = .cmp ∧ s.snap.hi1 ≠ s.snap.hi2 ∧ s.params.maxRetries = some s.snap.retries ∧
      s.snapStep.snap.phase = .idle ∧ s.snapStep.responses = .command 6 0 :: s.responses) := by
  obtain ⟨idle, -⟩ | ⟨p, h⟩ | ⟨p, h⟩ | ⟨p, h⟩ | ⟨p, heq, h⟩ | ⟨p, hne, h⟩ := snapStep_phase s
  · exact absurd idle hp
  · exact .inl ⟨p, by rw [h]⟩
  · exact .inr (.inl ⟨p, by rw [h]⟩)
  · exact .inr (.inr (.inl ⟨p, by rw [h]⟩))
  · exact .inr (.inr (.inr (.inl ⟨p, heq, by rw [h]; rfl, _, by rw [h]; rfl⟩)))
  · obtain ⟨cap, hr⟩ | ⟨cap, hr⟩ := retrySnapshot_cases s
    · exact .inr (.inr (.inr (.inr (.inr ⟨p, hne, cap, by rw [h, hr]; rfl, by rw [h, hr]; rfl⟩))))
    · exact .inr (.inr (.inr (.inr (.inl ⟨p, hne, cap, by rw [h, hr], by rw [h, hr]⟩))))

/-- RST answers the SNAP64 in progress with ABORTED_BY_RESET (70_reset_and_hazards.md R107). -/
theorem rst_responses_of_busy {s : State} (h : s.busy = true) : s.rst.responses = .command 7 0 :: s.responses := by
  simp only [State.rst, h]
  rfl

/-- Settles O40, agent by agent: a TICK does not move the FSM. -/
theorem fsmTransitions : Obligations.FsmTransitions := by
  intro s s' h hmoved
  obtain ⟨ha, h⟩ | ⟨-, rfl⟩ | ⟨ha, rfl⟩ | ⟨ha, rfl⟩ := step_next_cases h
  · obtain keep | edge := hostTurn_snap_phase_cases h
    · exact absurd (by simpa using keep) hmoved
    · rw [State.takeTurn_snap, State.takeTurn_pending] at edge
      obtain ⟨idle, started, request⟩ := edge
      exact .inl ⟨idle, started, ha, request⟩
  · exact absurd (by simp) hmoved
  · have busy : s.takeTurn.snap.phase ≠ .idle := by
      intro idle
      exact hmoved (by rw [snapStep_of_idle idle, State.takeTurn_snap])
    have edge := snapStep_edges busy
    rw [State.takeTurn_snap, State.takeTurn_params, State.takeTurn_responses] at edge
    exact .inr (.inl ⟨ha, edge⟩)
  · have idle : s.takeTurn.rst.snap.phase = .idle := by rw [State.rst_snap]; rfl
    have busy : s.takeTurn.busy = true := by
      rw [State.takeTurn_busy, busy_iff, ← idle]
      exact hmoved.symm
    exact .inr (.inr ⟨ha, idle, by rw [rst_responses_of_busy busy, State.takeTurn_responses]⟩)

end Sys2Proof.Machine

/-! How `CNT1` moves over a stretch of ticks (42_counter_reader.md R79's proof sketch and R81's reason). -/

namespace Sys2Proof.Machine

/-! ## Counting in one direction -/

theorem count_iterate (b : BitPositions) (c v : Word) (k : Nat) :
    (count b c)^[k] v = if b.isDown c then v - BitVec.ofNat 32 k else v + BitVec.ofNat 32 k := by
  induction k generalizing v with
  | zero => simp
  | succ k ih =>
    rw [Function.iterate_succ_apply, ih, BitVec.ofNat_add, count]
    split
    · rw [BitVec.sub_sub, BitVec.add_comm]
      rfl
    · rw [BitVec.add_assoc, BitVec.add_comm 1]
      rfl

/-- A word counted fewer than 2^32 times in one direction comes back only if it was not counted at all. -/
theorem count_iterate_eq_self_iff (b : BitPositions) (c v : Word) {k : Nat} (hk : k < 2 ^ 32) :
    (count b c)^[k] v = v ↔ k = 0 := by
  have hof : BitVec.ofNat 32 k = 0 ↔ k = 0 := by
    rw [← BitVec.toNat_inj, BitVec.toNat_ofNat, Nat.mod_eq_of_lt hk]
    simp
  rw [← hof, count_iterate]
  split <;> simp

theorem count_ne (b : BitPositions) (c v : Word) : count b c v ≠ v :=
  mt (count_iterate_eq_self_iff b c v (k := 1) (by decide)).mp Nat.one_ne_zero

/-! ## A stretch of ticks -/

section Ticks
variable (b : BitPositions) (n : Nat) (T : TimerRegs)

theorem ticks_succ : T.ticks b (n + 1) = (T.tick b).ticks b n := rfl

@[simp] theorem ticks_ctrl0 : (T.ticks b n).ctrl0 = T.ctrl0 := by
  induction n generalizing T with
  | zero => rfl
  | succ n ih => exact ih _

@[simp] theorem ticks_ctrl1 : (T.ticks b n).ctrl1 = T.ctrl1 := by
  induction n generalizing T with
  | zero => rfl
  | succ n ih => exact ih _

theorem cnt1Changes_succ :
    T.cnt1Changes b (n + 1) = (if (T.tick b).cnt1 = T.cnt1 then 0 else 1) + (T.tick b).cnt1Changes b n := rfl

theorem cnt1Changes_add (m : Nat) :
    T.cnt1Changes b (n + m) = T.cnt1Changes b n + (T.ticks b n).cnt1Changes b m := by
  induction n generalizing T with
  | zero => simp [TimerRegs.cnt1Changes, TimerRegs.ticks]
  | succ n ih => rw [Nat.add_right_comm, cnt1Changes_succ, cnt1Changes_succ, ih, ticks_succ, Nat.add_assoc]

end Ticks

section Cnt1
variable {b : BitPositions} {n : Nat} {T : TimerRegs}

/-- A `CNT1` that did not change ends where it began. -/
theorem ticks_cnt1_of_no_change (h : T.cnt1Changes b n = 0) : (T.ticks b n).cnt1 = T.cnt1 := by
  induction n generalizing T with
  | zero => rfl
  | succ n ih =>
    rw [cnt1Changes_succ] at h
    split at h
    case isTrue keep => rw [ticks_succ, ih (by omega), keep]
    case isFalse => omega

/-- The control word in whose direction `CNT1` counts: `CTRL0` in cascade mode, `CTRL1` in independent mode (R68, R69). -/
def TimerRegs.cnt1Control (T : TimerRegs) (b : BitPositions) : Word := if T.cascade b then T.ctrl0 else T.ctrl1

/-- With `LOAD` a tick loads `CNT1` in both modes (R68, R69). -/
theorem tick_cnt1_of_load (h : b.isLoad T.ctrl1 = true) : (T.tick b).cnt1 = T.load1 := by
  simp [TimerRegs.tick, tickHalf, h]

/-- Without `LOAD`, `CNT1` stays in a tick or counts once in its direction (R68, R69). -/
theorem tick_cnt1_cases (h : b.isLoad T.ctrl1 = false) :
    (T.tick b).cnt1 = T.cnt1 ∨ (T.tick b).cnt1 = count b (T.cnt1Control b) T.cnt1 := by
  simp only [TimerRegs.tick, TimerRegs.cnt1Control, tickHalf, h]
  cases T.cascade b
  · cases b.isEnabled T.ctrl1 <;> simp
  · cases carries b T.ctrl0 T.cnt0 <;> simp

/-- Without `LOAD`, `CNT1` counts once for each of its changes, always in the same direction (R79). -/
theorem ticks_cnt1_eq_count_iterate (h : b.isLoad T.ctrl1 = false) :
    (T.ticks b n).cnt1 = (count b (T.cnt1Control b))^[T.cnt1Changes b n] T.cnt1 := by
  induction n generalizing T with
  | zero => rfl
  | succ n ih =>
    have fromTick : (T.ticks b (n + 1)).cnt1 =
        (count b (T.cnt1Control b))^[(T.tick b).cnt1Changes b n] (T.tick b).cnt1 := ih h
    rw [fromTick, cnt1Changes_succ]
    obtain keep | counts := tick_cnt1_cases h
    · simp [keep]
    · have moved : (T.tick b).cnt1 ≠ T.cnt1 := counts ▸ count_ne b _ _
      rw [if_neg moved, counts, Nat.add_comm, Function.iterate_succ_apply]

/-- With `LOAD` and `CNT1` at its load register nothing changes `CNT1`. -/
theorem cnt1Changes_of_loaded (h : b.isLoad T.ctrl1 = true) (loaded : T.cnt1 = T.load1) : T.cnt1Changes b n = 0 := by
  induction n generalizing T with
  | zero => rfl
  | succ n ih =>
    rw [cnt1Changes_succ, if_pos ((tick_cnt1_of_load h).trans loaded.symm), ih (T := T.tick b) h (tick_cnt1_of_load h)]

/-- With `LOAD` the first tick alone can change `CNT1`. -/
theorem cnt1Changes_succ_of_load (h : b.isLoad T.ctrl1 = true) :
    T.cnt1Changes b (n + 1) = if T.load1 = T.cnt1 then 0 else 1 := by
  rw [cnt1Changes_succ, cnt1Changes_of_loaded (T := T.tick b) h (tick_cnt1_of_load h), tick_cnt1_of_load h, Nat.add_zero]

/-- With fewer than 2^32 changes `CNT1` ends where it began exactly if it did not change (R79). -/
theorem ticks_cnt1_eq_iff (hn : T.cnt1Changes b n < 2 ^ 32) :
    (T.ticks b n).cnt1 = T.cnt1 ↔ T.cnt1Changes b n = 0 := by
  cases h : b.isLoad T.ctrl1
  case false => rw [ticks_cnt1_eq_count_iterate h, count_iterate_eq_self_iff b _ _ hn]
  case true =>
    refine ⟨fun same => ?_, ticks_cnt1_of_no_change⟩
    cases n with
    | zero => rfl
    | succ n =>
      have after : (T.ticks b (n + 1)).cnt1 = T.load1 :=
        (ticks_cnt1_of_no_change (cnt1Changes_of_loaded (T := T.tick b) h (tick_cnt1_of_load h))).trans (tick_cnt1_of_load h)
      rw [cnt1Changes_succ_of_load h, if_pos (after.symm.trans same)]

/-- `CNT1` counts on every tick: independent mode, enabled, without `LOAD` (R69, 70_reset_and_hazards.md R115). -/
def CountsEveryTick (b : BitPositions) (T : TimerRegs) : Prop :=
  b.isCascade T.ctrl0 = false ∧ b.isEnabled T.ctrl1 = true ∧ b.isLoad T.ctrl1 = false

theorem CountsEveryTick.ticks (h : CountsEveryTick b T) (n : Nat) : CountsEveryTick b (T.ticks b n) := by
  rwa [CountsEveryTick, ticks_ctrl0, ticks_ctrl1]

theorem CountsEveryTick.tick_cnt1 (h : CountsEveryTick b T) : (T.tick b).cnt1 = count b T.ctrl1 T.cnt1 := by
  obtain ⟨hind, hen, hload⟩ := h
  rw [tick_cnt1_of_independent hind]
  simp [tickHalf, hload, hen]

theorem CountsEveryTick.cnt1Changes_eq (h : CountsEveryTick b T) : T.cnt1Changes b n = n := by
  induction n generalizing T with
  | zero => rfl
  | succ n ih =>
    have moved : (T.tick b).cnt1 ≠ T.cnt1 := h.tick_cnt1 ▸ count_ne b _ _
    rw [cnt1Changes_succ, if_neg moved, ih (T := T.tick b) (h.ticks 1), Nat.add_comm]

/-! ## Cascade mode: at most one change in 2^32 ticks (R81) -/

/-- How many ticks a counting `CNT0` is away from the value it wraps from (R68). -/
def TimerRegs.ticksToWrap (T : TimerRegs) (b : BitPositions) : Nat :=
  if b.isDown T.ctrl0 then T.cnt0.toNat else 2 ^ 32 - 1 - T.cnt0.toNat

theorem ticksToWrap_eq_zero_of_carries (h : carries b T.ctrl0 T.cnt0 = true) : T.ticksToWrap b = 0 := by
  obtain ⟨-, -, wraps⟩ := carries_iff.mp h
  unfold TimerRegs.ticksToWrap
  split <;> simp_all

section Counting
variable (hload0 : b.isLoad T.ctrl0 = false) (hen : b.isEnabled T.ctrl0 = true)
include hload0 hen

theorem tick_cnt0_of_counting : (T.tick b).cnt0 = count b T.ctrl0 T.cnt0 := by
  simp [tick_cnt0, tickHalf, hload0, hen]

/-- A counting `CNT0` counts once in every tick. -/
theorem ticks_cnt0_of_counting : (T.ticks b n).cnt0 = (count b T.ctrl0)^[n] T.cnt0 := by
  induction n generalizing T with
  | zero => rfl
  | succ n ih =>
    rw [ticks_succ, ih (T := T.tick b) hload0 hen, tick_cnt0_of_counting hload0 hen, Function.iterate_succ_apply,
      tick_ctrl0]

/-- A tick brings a counting `CNT0` one nearer to its wrap, and the wrap begins a whole round. -/
theorem ticksToWrap_tick :
    (T.tick b).ticksToWrap b = if carries b T.ctrl0 T.cnt0 then 2 ^ 32 - 1 else T.ticksToWrap b - 1 := by
  unfold TimerRegs.ticksToWrap
  rw [tick_cnt0_of_counting hload0 hen, tick_ctrl0]
  simp only [carries_iff, hload0, hen, count, true_and]
  cases b.isDown T.ctrl0
  · simp only [Bool.false_eq_true, if_false]
    split <;> bv_omega
  · simp only [if_true]
    split <;> bv_omega

/-- No carry reaches `CNT1` before `CNT0` wraps. -/
theorem cnt1Changes_before_wrap (hcasc : b.isCascade T.ctrl0 = true) (hload1 : b.isLoad T.ctrl1 = false)
    (hn : n ≤ T.ticksToWrap b) : T.cnt1Changes b n = 0 := by
  induction n generalizing T with
  | zero => rfl
  | succ n ih =>
    have noCarry : carries b T.ctrl0 T.cnt0 = false := by
      by_contra h
      have := ticksToWrap_eq_zero_of_carries (eq_true_of_ne_false h)
      omega
    have keep : (T.tick b).cnt1 = T.cnt1 := by
      rw [tick_cnt1_of_no_load hcasc hload1, noCarry]
      rfl
    have next : (T.tick b).ticksToWrap b = T.ticksToWrap b - 1 := by
      rw [ticksToWrap_tick hload0 hen, noCarry]
      rfl
    rw [cnt1Changes_succ, if_pos keep, ih (T := T.tick b) hload0 hen hcasc hload1 (by omega)]

end Counting

/-- After a change the next one is a whole round of `CNT0` away. -/
theorem cnt1Changes_le_one (hcasc : b.isCascade T.ctrl0 = true) (hn : n ≤ 2 ^ 32) : T.cnt1Changes b n ≤ 1 := by
  induction n generalizing T with
  | zero => exact Nat.zero_le 1
  | succ n ih =>
    cases hload1 : b.isLoad T.ctrl1
    case true =>
      rw [cnt1Changes_succ_of_load hload1]
      split <;> omega
    case false =>
      rw [cnt1Changes_succ]
      split
      case isTrue =>
        have := ih (T := T.tick b) hcasc (by omega)
        omega
      case isFalse moved =>
        have carry := carries_of_tick_cnt1_ne hcasc hload1 moved
        obtain ⟨hload0, hen, -⟩ := carries_iff.mp carry
        have round : (T.tick b).ticksToWrap b = 2 ^ 32 - 1 := by
          rw [ticksToWrap_tick hload0 hen, if_pos carry]
        rw [cnt1Changes_before_wrap (T := T.tick b) hload0 hen hcasc hload1 (by omega)]

end Cnt1

end Sys2Proof.Machine

/-! A triple of the FSM's reads, with ticks in its gaps, as one run: what it reads, and how CMP ends it (42_counter_reader.md
R73 to R81). -/

namespace Sys2Proof.Machine

/-! ## Stretches of ticks -/

theorem perTimer_map_map {α β γ : Type} (p : PerTimer α) (f : α → β) (g : β → γ) :
    (p.map f).map g = p.map fun a => g (f a) := rfl

/-- The state `n` ticks later (41_control_encoder.md R67). -/
def State.ticks (s : State) (n : Nat) : State := { s with timers := s.timers.map (·.ticks s.bits n) }

section StateTicks
variable (s : State) (n : Nat)

@[simp] theorem State.ticks_timer (t : TimerId) : (s.ticks n).timer t = (s.timer t).ticks s.bits n := by
  simp [State.ticks, State.timer_def]
@[simp] theorem State.ticks_bits : (s.ticks n).bits = s.bits := rfl
@[simp] theorem State.ticks_snap : (s.ticks n).snap = s.snap := rfl

end StateTicks

/-- A stretch of TICK turns is so many ticks. -/
theorem run_tickTurns {s : State} {n : Nat} {rest : List Turn} (h : s.turns = tickTurns n ++ rest) (m : Nat) :
    run (n + m) s = run m { s.ticks n with turns := rest } := by
  obtain ⟨s1, hrun, hs1, timers⟩ := run_ticks n s rest m h
  have advanced : s1.timers = s.timers.map (·.ticks s.bits n) :=
    PerTimer.ext_get fun t => by simpa [State.timer_def] using timers t
  rw [hrun, hs1, advanced]
  rfl

/-- The SNAP agent does not read the schedule. -/
theorem snapStep_with_turns (s : State) (turns : List Turn) :
    ({ s with turns := turns } : State).snapStep = { s.snapStep with turns := turns } := by
  unfold State.snapStep State.retrySnapshot
  cases s.snap.phase with
  | idle | rdHi1 | rdLo | rdHi2 => rfl
  | cmp =>
    dsimp only
    split
    · rfl
    · split <;> rfl

/-- A SNAP turn and the ticks in the gap after it. -/
theorem run_snap_gap {s : State} {n : Nat} {rest : List Turn} (h : s.turns = .snap :: (tickTurns n ++ rest)) (m : Nat) :
    run (n + 1 + m) s = run m { s.snapStep.ticks n with turns := rest } := by
  rw [Nat.add_right_comm, run_snap s _ _ h, snapStep_with_turns, run_tickTurns rfl]
  rfl

/-- The register file of the timer that the FSM reads. -/
abbrev State.snapTimer (s : State) : TimerRegs := s.timer s.snap.tid

section Reading
variable {s : State} {n : Nat} {rest : List Turn} (h : s.turns = .snap :: (tickTurns n ++ rest)) (m : Nat)
include h

theorem run_rdHi1_gap (hp : s.snap.phase = .rdHi1) :
    run (n + 1 + m) s =
      run m { s.ticks n with turns := rest, snap := { s.snap with hi1 := s.snapTimer.cnt1, phase := .rdLo } } := by
  rw [run_snap_gap h, snapStep_of_rdHi1 hp]
  rfl

theorem run_rdLo_gap (hp : s.snap.phase = .rdLo) :
    run (n + 1 + m) s =
      run m { s.ticks n with turns := rest, snap := { s.snap with lo := s.snapTimer.cnt0, phase := .rdHi2 } } := by
  rw [run_snap_gap h, snapStep_of_rdLo hp]
  rfl

theorem run_rdHi2_gap (hp : s.snap.phase = .rdHi2) :
    run (n + 1 + m) s =
      run m { s.ticks n with turns := rest, snap := { s.snap with hi2 := s.snapTimer.cnt1, phase := .cmp } } := by
  rw [run_snap_gap h, snapStep_of_rdHi2 hp]
  rfl

end Reading

/-! ## A triple -/

section Triple
variable (s : State) (a b c : Nat) (rest : List Turn)

/-- What the FSM holds at CMP after a triple with `a` and `b` ticks in its gaps (R73 to R75). -/
def State.tripleRead : Snap :=
  { s.snap with
    hi1 := s.snapTimer.cnt1
    lo := (s.snapTimer.ticks s.bits a).cnt0
    hi2 := (s.snapTimer.ticks s.bits (a + b)).cnt1
    phase := .cmp }

/-- The state in which the CMP step of a triple runs. -/
def State.atTripleCmp : State := { s.ticks (a + b + c) with turns := rest, snap := s.tripleRead a b }

variable {s a b c rest} (hp : s.snap.phase = .rdHi1) (hturns : s.turns = tripleTurns a b c ++ rest)
include hp hturns

/-- Up to CMP a triple moves the counters and the FSM's readings. -/
theorem run_triple (m : Nat) : run (a + b + c + 4 + m) s = run m (s.atTripleCmp a b c rest).snapStep := by
  have turns : s.turns = .snap :: (tickTurns a ++ .snap :: (tickTurns b ++ .snap :: (tickTurns c ++ .snap :: rest))) := by
    simpa [tripleTurns] using hturns
  rw [show a + b + c + 4 + m = a + 1 + (b + 1 + (c + 1 + (m + 1))) by omega, run_rdHi1_gap turns _ hp,
    run_rdLo_gap rfl _ rfl, run_rdHi2_gap rfl _ rfl, run_snap _ _ _ rfl]
  congr 2
  simp [State.atTripleCmp, State.tripleRead, State.ticks, State.timer_def, ticks_add, perTimer_map_map, State.bits_def]

/-- A triple with equal upper readings accepts (R76). -/
theorem run_triple_accepts (same : (s.snapTimer.ticks s.bits (a + b)).cnt1 = s.snapTimer.cnt1) :
    run (a + b + c + 4) s = .next (s.atTripleCmp a b c rest).acceptSnapshot := by
  have equal : (s.tripleRead a b).hi1 = (s.tripleRead a b).hi2 := same.symm
  exact (run_triple hp hturns 0).trans (congrArg _ ((snapStep_of_cmp rfl).trans (if_pos equal)))

/-- A triple with unequal upper readings retries (R77). -/
theorem run_triple_rejects (moved : (s.snapTimer.ticks s.bits (a + b)).cnt1 ≠ s.snapTimer.cnt1) (m : Nat) :
    run (a + b + c + 4 + m) s = run m (s.atTripleCmp a b c rest).retrySnapshot := by
  have unequal : (s.tripleRead a b).hi1 ≠ (s.tripleRead a b).hi2 := moved.symm
  exact (run_triple hp hturns m).trans (congrArg _ ((snapStep_of_cmp rfl).trans (if_neg unequal)))

end Triple

/-! ## A snapshot is consistent (R79) -/

/-- Where `CNT1` did not change, its first reading and the lower one are the counter at the RD_LO read. -/
theorem tripleRead_eq_counter {s : State} {a b : Nat} (h : s.snapTimer.cnt1Changes s.bits (a + b) = 0) :
    (s.tripleRead a b).hi1 ++ (s.tripleRead a b).lo = (s.snapTimer.ticks s.bits a).counter := by
  rw [cnt1Changes_add] at h
  have same : (s.snapTimer.ticks s.bits a).cnt1 = s.snapTimer.cnt1 := ticks_cnt1_of_no_change (by omega)
  rw [TimerRegs.counter, same]
  rfl

/-- Settles O41: fewer than 2^32 changes of `CNT1` show in its two readings. -/
theorem snapshotIsConsistent : Obligations.SnapshotIsConsistent := by
  intro s a b c rest hp hturns hlt
  by_cases h : s.snapTimer.cnt1Changes s.bits (a + b) = 0
  case pos =>
    have value := tripleRead_eq_counter h
    refine ⟨_, run_triple_accepts hp hturns (ticks_cnt1_of_no_change h), rfl, .inl ⟨h, rfl, ?_, ?_⟩⟩
    · rw [State.acceptSnapshot_shadow, PerTimer.get_set]
      exact (if_pos rfl).trans value
    · rw [← value]
      rfl
  case neg =>
    have moved := mt (ticks_cnt1_eq_iff hlt).mp h
    refine ⟨_, run_triple_rejects hp hturns moved 0, ?_⟩
    obtain ⟨-, hr⟩ | ⟨-, hr⟩ := retrySnapshot_cases (s.atTripleCmp a b c rest)
    · exact ⟨by rw [hr]; rfl, .inr ⟨h, State.retrySnapshot_shadow _, .inr (by rw [hr]; rfl)⟩⟩
    · exact ⟨by rw [hr]; rfl, .inr ⟨h, State.retrySnapshot_shadow _, .inl (by rw [hr]; rfl)⟩⟩

/-! ## From one triple to the next (R77) -/

section Retry
variable (s : State) (a b c d : Nat) (rest : List Turn)

/-- The state in which the triple after a rejected one begins, `d` ticks after CMP. -/
def State.nextTriple : State :=
  { s.ticks (a + b + c + d) with
    turns := rest
    snap := { s.tripleRead a b with retries := s.snap.retries + 1, phase := .rdHi1 } }

theorem nextTriple_snapTimer :
    (s.nextTriple a b c d rest).snapTimer = s.snapTimer.ticks s.bits (a + b + c + d) :=
  State.ticks_timer s _ s.snap.tid

variable {s a b c d rest}

/-- A rejected triple below the cap reads again, and gets no response. -/
theorem run_retry_gap (hp : s.snap.phase = .rdHi1) (hturns : s.turns = tripleTurns a b c ++ (tickTurns d ++ rest))
    (moved : (s.snapTimer.ticks s.bits (a + b)).cnt1 ≠ s.snapTimer.cnt1)
    (hcap : s.params.maxRetries ≠ some s.snap.retries) (m : Nat) :
    run (a + b + c + 4 + (d + m)) s = run m (s.nextTriple a b c d rest) := by
  rw [run_triple_rejects hp hturns moved, retrySnapshot_of_no_cap (s := s.atTripleCmp a b c _) hcap,
    run_tickTurns rfl]
  congr 1
  simp [State.atTripleCmp, State.nextTriple, State.ticks, ticks_add, perTimer_map_map, State.bits_def, State.tripleRead]

end Retry

/-! ## Two triples are enough in cascade mode (R81) -/

/-- In 2^32 ticks of cascade mode a change of `CNT1` is the only one. -/
theorem cnt1Changes_after_change {b : BitPositions} {T : TimerRegs} {n m k : Nat} (hcasc : b.isCascade T.ctrl0 = true)
    (hle : n + m + k ≤ 2 ^ 32) (moved : T.cnt1Changes b n ≠ 0) : (T.ticks b (n + m)).cnt1Changes b k = 0 := by
  have once := cnt1Changes_le_one hcasc hle
  rw [cnt1Changes_add, cnt1Changes_add] at once
  omega

/-- Two triples in at most 2^32 ticks end a cascade-mode SNAP64 that has not retried yet. -/
theorem snapshot_ends_of_two_triples {s : State} {a b c d a' b' c' : Nat} {rest : List Turn}
    (hle : a + b + (c + d) + (a' + b') ≤ 2 ^ 32) (hp : s.snap.phase = .rdHi1) (hretries : s.snap.retries = 0)
    (hcap : s.params.maxRetries ≠ some 0) (hcasc : s.bits.isCascade s.snapTimer.ctrl0 = true)
    (hturns : s.turns = tripleTurns a b c ++ (tickTurns d ++ (tripleTurns a' b' c' ++ rest))) :
    ∃ (k : Nat) (s' : State) (v : DWord),
      (k = a + b + c + 4 ∨ k = a + b + c + 4 + (d + (a' + b' + c' + 4))) ∧
      run k s = .next s' ∧ s'.snap.phase = .idle ∧ s'.snap.retries ≤ 1 ∧ s'.responses = .command 0 v :: s.responses := by
  by_cases h : s.snapTimer.cnt1Changes s.bits (a + b) = 0
  case pos =>
    have ended := run_triple_accepts hp hturns (ticks_cnt1_of_no_change h)
    exact ⟨_, _, _, .inl rfl, ended, rfl, hretries.le.trans (Nat.zero_le 1), rfl⟩
  case neg =>
    have few : s.snapTimer.cnt1Changes s.bits (a + b) < 2 ^ 32 :=
      (cnt1Changes_le_one hcasc (by omega)).trans_lt (by decide)
    have retry := run_retry_gap hp hturns (mt (ticks_cnt1_eq_iff few).mp h) (by rwa [hretries]) (a' + b' + c' + 4)
    have quiet : (s.nextTriple a b c d (tripleTurns a' b' c' ++ rest)).snapTimer.cnt1Changes s.bits (a' + b') = 0 := by
      rw [nextTriple_snapTimer, Nat.add_assoc (a + b)]
      exact cnt1Changes_after_change hcasc hle h
    have ended := run_triple_accepts (s := s.nextTriple a b c d _) rfl rfl (ticks_cnt1_of_no_change quiet)
    exact ⟨_, _, _, .inr rfl, retry.trans ended, rfl, (congrArg (· + 1) hretries).le, rfl⟩

/-- Settles O43: the ticks before RD_HI1, and then two triples in at most 6G ticks. -/
theorem snapshotEndsWithinTwoTriples : Obligations.SnapshotEndsWithinTwoTriples := by
  intro s G g0 a b c d a' b' c' rest hG hgaps hp hretries hcap hcasc hturns
  simp only [List.mem_cons, List.not_mem_nil, or_false, forall_eq_or_imp, forall_eq] at hgaps
  have short : a + b + (c + d) + (a' + b') ≤ 2 ^ 32 := by omega
  have cascade : s.bits.isCascade (s.ticks g0).snapTimer.ctrl0 = true := by simpa using hcasc
  obtain ⟨k, s', v, hk, hrun, ended⟩ :=
    snapshot_ends_of_two_triples (s := { s.ticks g0 with turns := tripleTurns a b c ++ _ }) short hp hretries hcap cascade
      rfl
  refine ⟨g0 + k, s', v, ?_, (run_tickTurns hturns k).trans hrun, ended⟩
  omega

/-! ## A SNAP64 that never ends (R78, 70_reset_and_hazards.md R115) -/

/-- Each of the triples sees `CNT1` change twice between its upper reads. -/
theorem run_busyTriples {s : State} {n : Nat} (hp : s.snap.phase = .rdHi1) (hcap : s.params.maxRetries = none)
    (counts : CountsEveryTick s.bits s.snapTimer) (hturns : s.turns = busyTriples n) :
    ∃ s', run (8 * n) s = .next s' ∧ s'.snap.phase = .rdHi1 ∧ s'.responses = s.responses ∧
      s'.snap.retries = s.snap.retries + n := by
  induction n generalizing s with
  | zero => exact ⟨s, rfl, hp, rfl, rfl⟩
  | succ n ih =>
    have twice : s.snapTimer.cnt1Changes s.bits (1 + 1) = 2 := counts.cnt1Changes_eq
    have moved : (s.snapTimer.ticks s.bits (1 + 1)).cnt1 ≠ s.snapTimer.cnt1 := by
      rw [ne_eq, ticks_cnt1_eq_iff (by omega), twice]
      decide
    have retry := run_retry_gap (c := 1) (d := 1) (rest := busyTriples n) hp hturns moved (by simp [hcap]) (8 * n)
    have counts' : CountsEveryTick s.bits (s.nextTriple 1 1 1 1 (busyTriples n)).snapTimer := by
      rw [nextTriple_snapTimer]
      exact counts.ticks _
    obtain ⟨s', hrun, phase, responses, retries⟩ := ih (s := s.nextTriple 1 1 1 1 (busyTriples n)) rfl hcap counts' rfl
    refine ⟨s', ?_, phase, responses, ?_⟩
    · rw [show 8 * (n + 1) = 1 + 1 + 1 + 4 + (1 + 8 * n) by omega, retry, hrun]
    · have once : (s.nextTriple 1 1 1 1 (busyTriples n)).snap.retries = s.snap.retries + 1 := rfl
      omega

/-- Settles O44 by the run of busy triples, whose premises on the timer are that `CNT1` counts on every tick. -/
theorem snapshotMayNeverEnd : Obligations.SnapshotMayNeverEnd :=
  fun _ _ hp hcap hind hen hload hturns => run_busyTriples hp hcap ⟨hind, hen, hload⟩ hturns

/-! ## The aliasing corner (R80) -/

/-- Two halves that count up on every tick, both from zero, in independent mode. -/
def lockstepRegs : TimerRegs := { TimerRegs.zero with ctrl0 := 0x80, ctrl1 := 0x80 }

theorem lockstepRegs_cnt1Changes (n : Nat) : lockstepRegs.cnt1Changes Config.bits n = n :=
  CountsEveryTick.cnt1Changes_eq ⟨by decide, by decide, by decide⟩

theorem lockstepRegs_cnt0 (n : Nat) : (lockstepRegs.ticks Config.bits n).cnt0 = BitVec.ofNat 32 n := by
  rw [ticks_cnt0_of_counting (by decide) (by decide), count_iterate]
  exact BitVec.zero_add _

theorem lockstepRegs_cnt1 (n : Nat) : (lockstepRegs.ticks Config.bits n).cnt1 = BitVec.ofNat 32 n := by
  rw [ticks_cnt1_eq_count_iterate (by decide), lockstepRegs_cnt1Changes, count_iterate]
  exact BitVec.zero_add _

/-- The counter never holds two different halves. -/
theorem lockstepRegs_counter_ne (n : Nat) : ((0 : Word) ++ (1 : Word)) ≠ (lockstepRegs.ticks Config.bits n).counter := by
  intro torn
  have toNat := congrArg BitVec.toNat torn
  rw [TimerRegs.counter, toNat_append_word, toNat_append_word, lockstepRegs_cnt0, lockstepRegs_cnt1,
    BitVec.toNat_ofNat] at toNat
  have : (0 : Word).toNat = 0 := rfl
  have : (1 : Word).toNat = 1 := rfl
  omega

/-- A SNAP64 of timer 0, which counts in lock step, at RD_HI1 with `a` and `b` ticks to come between its reads. -/
def lockstepSnapshot (a b : Nat) : State :=
  { State.reset with
    timers := ⟨lockstepRegs, .zero, .zero⟩
    snap := { Snap.reset with phase := .rdHi1 }
    turns := tripleTurns a b 0 }

/-- After 2^32 changes `CNT1` reads as before, and the FSM accepts it with the `CNT0` from between. -/
theorem lockstepSnapshot_accepts {a b : Nat} (hab : a + b = 2 ^ 32) :
    ∃ s', run (a + b + 0 + 4) (lockstepSnapshot a b) = .next s' ∧
      s'.responses = [.command 0 ((0 : Word) ++ BitVec.ofNat 32 a)] := by
  have same : (lockstepRegs.ticks Config.bits (a + b)).cnt1 = lockstepRegs.cnt1 := by
    rw [lockstepRegs_cnt1, hab]
    rfl
  have accepts := run_triple_accepts (s := lockstepSnapshot a b) (c := 0) (rest := []) rfl (List.append_nil _).symm same
  refine ⟨_, accepts, ?_⟩
  rw [← lockstepRegs_cnt0]
  rfl

/-- Settles O42: the two halves stay equal, and the accepted pair is 0 and 1. -/
theorem aliasedSnapshotIsAccepted : Obligations.AliasedSnapshotIsAccepted := by
  have hab : 1 + (2 ^ 32 - 1) = 2 ^ 32 := by decide
  obtain ⟨s', accepts, answer⟩ := lockstepSnapshot_accepts hab
  exact ⟨lockstepSnapshot 1 (2 ^ 32 - 1), s', 1, 2 ^ 32 - 1, 0, _, rfl, rfl, (lockstepRegs_cnt1Changes _).trans hab,
    accepts, answer, fun k _ => lockstepRegs_counter_ne k⟩

end Sys2Proof.Machine

/-! The Duration Converter (43_host_sequences.md R89): the special frequencies, and no ticks at a positive one. -/

namespace Sys2Proof.Machine

/-! ## The fields of a binary64 number -/

/-- The bits of a NaN: the highest exponent field, and a significand that is not zero. -/
def IsNan (v : BitVec 64) : Prop := v.extractLsb' 52 11 = 0x7FF ∧ v.extractLsb' 0 52 ≠ 0

section Fields
variable {v : BitVec 64}

theorem exponent_toNat : (v.extractLsb' 52 11).toNat = v.toNat / 2 ^ 52 % 2 ^ 11 := by
  rw [BitVec.extractLsb'_toNat, Nat.shiftRight_eq_div_pow]

theorem significand_toNat : (v.extractLsb' 0 52).toNat = v.toNat % 2 ^ 52 := by
  rw [BitVec.extractLsb'_toNat, Nat.shiftRight_zero]

theorem isNan_iff_toNat : IsNan v ↔ (v.extractLsb' 52 11).toNat = 0x7FF ∧ (v.extractLsb' 0 52).toNat ≠ 0 :=
  and_congr BitVec.toNat_inj.symm (not_congr BitVec.toNat_inj.symm)

/-- A number's magnitude is a NaN exactly where its bits are one. -/
theorem magnitude_eq_nan_iff : magnitude v = .nan ↔ IsNan v := by
  rw [isNan_iff_toNat]
  unfold magnitude
  dsimp only
  split_ifs with exponent significand
  · exact iff_of_false (by simp) fun h => h.2 significand
  · exact iff_of_true rfl ⟨exponent, significand⟩
  all_goals exact iff_of_false (by simp) fun h => exponent h.1

/-- A number of magnitude zero has no bit set but for its sign. -/
theorem toNat_mod_of_magnitude_zero {e : Int} (h : magnitude v = .finite 0 e) : v.toNat % 2 ^ 63 = 0 := by
  unfold magnitude at h
  simp only [exponent_toNat, significand_toNat] at h
  split_ifs at h <;> simp only [Magnitude.finite.injEq] at h <;> omega

/-- The sign of a number is no part of its magnitude. -/
theorem magnitude_xor_sign : magnitude (v ^^^ 0x8000_0000_0000_0000#64) = magnitude v := by
  have exponent : (v ^^^ 0x8000_0000_0000_0000#64).extractLsb' 52 11 = v.extractLsb' 52 11 := by
    rw [BitVec.extractLsb'_xor]
    exact BitVec.xor_zero
  have significand : (v ^^^ 0x8000_0000_0000_0000#64).extractLsb' 0 52 = v.extractLsb' 0 52 := by
    rw [BitVec.extractLsb'_xor]
    exact BitVec.xor_zero
  unfold magnitude
  rw [exponent, significand]

theorem isNan_quietNan (ticks : DWord) (hz : BitVec 64) : IsNan (quietNan ticks hz) := by
  unfold IsNan quietNan
  rw [BitVec.extractLsb'_or, BitVec.extractLsb'_or]
  constructor
  · exact BitVec.or_allOnes
  · intro h
    have quiet := congrArg (·.getLsbD 51) h
    rw [BitVec.getLsbD_or] at quiet
    simp at quiet

end Fields

/-! ## A frequency of zero -/

section ZeroFrequency
variable {ticks : DWord} {hz : BitVec 64} {e : Int} (h : magnitude hz = .finite 0 e)
include h

theorem ticksToSeconds_of_zero (ht : ticks ≠ 0) : ticksToSeconds ticks hz = withSignOf hz 0x7FF0_0000_0000_0000 := by
  simp only [ticksToSeconds, h, ht, if_false]

theorem isNan_of_no_ticks_at_zero : IsNan (ticksToSeconds 0 hz) := by
  simp only [ticksToSeconds, h, if_true]
  exact isNan_quietNan 0 hz

end ZeroFrequency

/-! ## The sign of a quotient -/

theorem getLsbD_sign : ∀ i < 64, (0x8000_0000_0000_0000#64).getLsbD i = decide (i = 63) := by
  decide

/-- Only the sign of `hz` is in the result. -/
theorem getLsbD_withSignOf (hz v : BitVec 64) {i : Nat} (hi : i < 64) :
    (withSignOf hz v).getLsbD i = (hz.getLsbD i && decide (i = 63) || v.getLsbD i) := by
  rw [withSignOf, BitVec.getLsbD_or, BitVec.getLsbD_and, BitVec.ofNat_eq_ofNat, getLsbD_sign i hi]

/-- Opposite signs on one magnitude make opposite numbers. -/
theorem withSignOf_xor_sign (hz : BitVec 64) {v : BitVec 64} (h : v.getLsbD 63 = false) :
    withSignOf (hz ^^^ 0x8000_0000_0000_0000#64) v = withSignOf hz v ^^^ 0x8000_0000_0000_0000#64 := by
  refine BitVec.eq_of_getLsbD_eq fun i hi => ?_
  rw [getLsbD_withSignOf _ v hi, BitVec.getLsbD_xor, BitVec.getLsbD_xor, getLsbD_withSignOf _ v hi, getLsbD_sign i hi]
  by_cases h63 : i = 63
  · rw [h63, h]
    simp
  · simp [h63]

/-- A quotient that is a number has the frequency's sign, and its magnitude depends on the frequency's magnitude only. -/
theorem ticksToSeconds_eq_withSignOf {ticks : DWord} {hz : BitVec 64} (number : ¬ IsNan hz)
    (counted : ¬ (ticks = 0 ∧ hz.toNat % 2 ^ 63 = 0)) :
    ∃ v, v.getLsbD 63 = false ∧
      ∀ hz', magnitude hz' = magnitude hz → ticksToSeconds ticks hz' = withSignOf hz' v := by
  rw [← magnitude_eq_nan_iff] at number
  cases hm : magnitude hz with
  | nan => exact absurd hm number
  | infinity => exact ⟨0, rfl, fun hz' h => by simp only [ticksToSeconds, h]⟩
  | finite m e =>
    cases m with
    | zero =>
      have ht : ticks ≠ 0 := fun ht => counted ⟨ht, toNat_mod_of_magnitude_zero hm⟩
      exact ⟨0x7FF0_0000_0000_0000, rfl, fun hz' h => ticksToSeconds_of_zero h ht⟩
    | succ m =>
      cases hq : magnitude (roundBinary64 ticks.toNat 1) with
      | finite mt et =>
        exact ⟨roundBinary64 (mt * 2 ^ (et - e).toNat) ((m + 1) * 2 ^ (e - et).toNat), roundBinary64_sign _ _,
          fun hz' h => by simp only [ticksToSeconds, h, hq]⟩
      | infinity | nan => exact ⟨0x7FF0_0000_0000_0000, rfl, fun hz' h => by simp only [ticksToSeconds, h, hq]⟩

/-- No ticks last no time at a positive frequency, infinity included (R88, R89). -/
theorem ticksToSeconds_no_ticks {hz : BitVec 64} (pos : 0 < hz.toNat) (le : hz.toNat ≤ 0x7FF0_0000_0000_0000) :
    ticksToSeconds 0 hz = 0 := by
  have unsigned : withSignOf hz 0 = 0 := by
    have sign : hz.getLsbD 63 = false := Nat.testBit_lt_two_pow (by omega)
    refine BitVec.eq_of_getLsbD_eq fun i hi => ?_
    rw [getLsbD_withSignOf _ _ hi]
    by_cases h63 : i = 63
    · rw [h63, sign]
      rfl
    · simp [h63]
  cases hm : magnitude hz with
  | nan =>
    have h := magnitude_eq_nan_iff.mp hm
    rw [isNan_iff_toNat, exponent_toNat, significand_toNat] at h
    omega
  | infinity => simpa only [ticksToSeconds, hm] using unsigned
  | finite m e =>
    cases m with
    | zero =>
      have := toNat_mod_of_magnitude_zero hm
      omega
    | succ m =>
      have none : magnitude (roundBinary64 (0 : DWord).toNat 1) = .finite 0 (-1074) := rfl
      have zero (d : Nat) : roundBinary64 0 d = 0 := rfl
      simpa only [ticksToSeconds, hm, none, Nat.zero_mul, zero] using unsigned

/-- Settles O58: the branches of the division by the frequency's magnitude, and the sign as the one bit it adds. -/
theorem durationOfSpecialFrequencies : Obligations.DurationOfSpecialFrequencies := by
  have zero : magnitude 0 = .finite 0 (-1074) := rfl
  have negativeZero : magnitude 0x8000_0000_0000_0000 = .finite 0 (-1074) := magnitude_xor_sign (v := 0)
  refine ⟨fun ticks ht => ⟨ticksToSeconds_of_zero zero ht, ticksToSeconds_of_zero negativeZero ht⟩,
    isNan_of_no_ticks_at_zero zero, isNan_of_no_ticks_at_zero negativeZero, fun ticks => ⟨rfl, rfl⟩,
    fun ticks hz h => ?nan, fun ticks hz number counted => ?sign⟩
  case nan =>
    simp only [ticksToSeconds, magnitude_eq_nan_iff.mpr h]
    exact isNan_quietNan ticks hz
  case sign =>
    have counted' : ¬ (ticks = 0 ∧ hz.toNat % 2 ^ 63 = 0) := by
      refine fun ⟨ht, hz0⟩ => counted ⟨ht, BitVec.eq_of_toNat_eq ?_⟩
      exact (BitVec.toNat_and hz _).trans ((Nat.and_two_pow_sub_one_eq_mod hz.toNat 63).trans hz0)
    obtain ⟨v, hv, quotient⟩ := ticksToSeconds_eq_withSignOf number counted'
    rw [quotient hz rfl, quotient _ magnitude_xor_sign]
    exact ⟨withSignOf_sign hz hv, withSignOf_xor_sign hz hv⟩

/-- Settles O54, by evaluating the converter at the fixed values. -/
theorem durationExamples : Obligations.DurationExamples := ⟨rfl, rfl, rfl⟩

end Sys2Proof.Machine

/-! The HOST at work (43_host_sequences.md): what one turn makes of a session, and how a program goes on while only HOST and
TICK take turns. -/

namespace Sys2Proof.Machine

/-! ## Schedules of HOST and TICK turns -/

section HostTicks
variable {n : Nat} {turns : List Turn}

theorem hostTicks_cons_tick (h : hostTicks n (.tick :: turns)) : hostTicks n turns := by
  obtain ⟨agents, enough⟩ := h
  exact ⟨fun a ha => agents a (.tail _ ha), by simpa using enough⟩

theorem hostTicks_cons_host (h : hostTicks (n + 1) (.host :: turns)) : hostTicks n turns := by
  obtain ⟨agents, enough⟩ := h
  exact ⟨fun a ha => agents a (.tail _ ha), by simpa using enough⟩

theorem hostTicks_cons_cases {a : Turn} (h : hostTicks n (a :: turns)) : a = .host ∨ a = .tick := by
  obtain ⟨agents, -⟩ := h
  exact agents a (.head _)

theorem hostTicks_mono {m : Nat} (hmn : m ≤ n) (h : hostTicks n turns) : hostTicks m turns :=
  ⟨h.1, hmn.trans h.2⟩

theorem not_hostTicks_succ_nil : ¬ hostTicks (n + 1) [] := by
  rintro ⟨-, few⟩
  simp at few

end HostTicks

/-! ## The session -/

theorem run_append (h : Session) (before after : List Turn) : h.run (before ++ after) = (h.run before).run after :=
  List.foldl_append

/-- Where a program goes on to, the rest of the session is as it was, but for the machine. -/
theorem goOn_of_same {h h' : Session} (hc : h.call = h'.call) (hl : h.lifecycle = h'.lifecycle)
    (hm : h.machine = h'.machine) (p : HostProgram) : h.goOn p = h'.goOn p := by
  cases p <;> simp [Session.goOn, hc, hl, hm]

theorem turn_tick_goOn (h : Session) (p : HostProgram) :
    (h.goOn p).turn .tick = ({ h with machine := h.machine.tick } : Session).goOn p := by
  rw [turn_tick]
  cases p <;> rfl

/-- The machine with the HOST's stream replaced. -/
def State.asking (s : State) (qs : List Request) : State := { s with pending := qs }

/-- The session with an instruction's request put up and not answered yet. -/
def Session.asking (h : Session) (i : Instr) : Session :=
  { h with outstanding := true, machine := h.machine.asking [i.encode] }

/-- With a command to issue and the port free, the HOST puts its request up (30_encoding.md R50). -/
theorem issue_of_call {h : Session} {i : Instr} {k : Response → HostProgram} (hp : h.prog = .call i k)
    (ho : h.outstanding = false) (hb : h.machine.busy = false) : h.issue = h.asking i := by
  simp [Session.issue, Session.asking, State.asking, hp, ho, hb]

theorem issue_of_done {h : Session} {r : HostResult} (hp : h.prog = .done r) : h.issue = h := by
  simp [Session.issue, hp]

theorem issue_of_outstanding {h : Session} (ho : h.outstanding = true) : h.issue = h := by
  simp [Session.issue, ho]

/-- The HOST's turn at a free port is the machine's with the request put up. -/
theorem turn_host_of_call {h : Session} {i : Instr} {k : Response → HostProgram} (hp : h.prog = .call i k)
    (ho : h.outstanding = false) (hb : h.machine.busy = false) : h.turn .host = (h.asking i).turn .host := by
  simp only [Session.turn, if_true, issue_of_call hp ho hb, issue_of_outstanding (h := h.asking i) rfl]

section Turn
variable {h : Session} {a : Turn} {s' : State} (hi : a = .host → h.issue = h) (hs : runTurn a h.machine = .next s')
include hi hs

theorem turn_eq_receive : h.turn a = h.receive s' := by
  have issued : (if a = .host then h.issue else h) = h := by
    split
    · exact hi ‹_›
    · rfl
  simp only [Session.turn, issued, hs]

/-- A turn without a response moves the machine only. -/
theorem turn_of_no_response (hr : s'.responses = h.machine.responses) : h.turn a = { h with machine := s' } := by
  rw [turn_eq_receive hi hs]
  unfold Session.receive
  split
  · simp [hr]
  · rfl

/-- A turn that answers the HOST's request continues its program. -/
theorem turn_of_response {i : Instr} {k : Response → HostProgram} {x : Response} (hp : h.prog = .call i k)
    (ho : h.outstanding = true) (hr : s'.responses = x :: h.machine.responses) :
    h.turn a = ({ h with machine := s' } : Session).goOn (k x) := by
  rw [turn_eq_receive hi hs]
  simp [Session.receive, hp, ho, hr]

end Turn

theorem hostTurn_asking {s : State} (hb : s.busy = false) (q : Request) :
    hostTurn (s.asking [q]) = serve q (s.asking []) :=
  hostTurn_of_pending (s := s.asking [q]) hb rfl

theorem hostTurn_of_no_request {s : State} (h : s.pending = []) : hostTurn s = .next s := by
  simp [hostTurn, h]

/-- The HOST's turn after its call has returned. -/
theorem turn_host_of_done {h : Session} {r : HostResult} (hp : h.prog = .done r) (hq : h.machine.pending = []) :
    h.turn .host = h :=
  turn_of_no_response (a := .host) (fun _ => issue_of_done hp) (hostTurn_of_no_request hq) rfl

/-- The HOST's turn with a word the decoder rejects: the program goes on with the fault, and no register is touched. -/
theorem turn_host_of_decode_error {h : Session} {i : Instr} {k : Response → HostProgram} {w : DWord} {f : BlockFault}
    (hp : h.prog = .call i k) (ho : h.outstanding = false) (hb : h.machine.busy = false) (hi : i.encode = .command w)
    (hd : decode (.command w) = .error f) :
    h.turn .host =
      ({ h with machine := (h.machine.asking []).raise .command f } : Session).goOn (k (.command (faultCode f) 0)) := by
  have served : hostTurn (h.machine.asking [i.encode]) = .next ((h.machine.asking []).raise .command f) := by
    rw [hostTurn_asking hb, hi, serve_of_decode_error hd]
  have answered := turn_of_response (h := h.asking i) (a := .host) (fun _ => issue_of_outstanding rfl) served hp rfl rfl
  rw [turn_host_of_call hp ho hb, answered]
  exact goOn_of_same rfl rfl rfl _

/-! ## Programs as triples -/

/-- An assertion on the machine between two commands: the port is free, no request is left, and a TICK may come. -/
def Rests (P : State → Prop) : Prop := ∀ s, P s → s.busy = false ∧ s.pending = [] ∧ P s.tick

/-- From a machine in `P` the program `p` goes on to `p'` with the machine in `P'`, in `n` turns of the HOST and any TICKs
between them. -/
def GoesOn (P : State → Prop) (p : HostProgram) (n : Nat) (P' : State → Prop) (p' : HostProgram) : Prop :=
  ∀ (h : Session) (m : Nat) (turns : List Turn), P h.machine → hostTicks (n + m) turns →
    ∃ s rest, P' s ∧ hostTicks m rest ∧ (h.goOn p).run turns = (({ h with machine := s } : Session).goOn p').run rest

section GoesOn
variable {P P' P'' : State → Prop} {p p' p'' : HostProgram} {n n' : Nat}

theorem GoesOn.refl : GoesOn P p 0 P p := by
  intro h m turns hP ht
  exact ⟨h.machine, turns, hP, by rwa [Nat.zero_add] at ht, rfl⟩

theorem GoesOn.trans (h₁ : GoesOn P p n P' p') (h₂ : GoesOn P' p' n' P'' p'') : GoesOn P p (n + n') P'' p'' := by
  intro h m turns hP ht
  obtain ⟨s, rest, hP', hrest, e⟩ := h₁ h (n' + m) turns hP (by rwa [← Nat.add_assoc])
  obtain ⟨s', rest', hP'', hrest', e'⟩ := h₂ { h with machine := s } m rest hP' hrest
  exact ⟨s', rest', hP'', hrest', e.trans e'⟩

/-- One command, which the block answers at once: TICKs pass, and then comes the HOST's turn. -/
theorem goesOn_call {i : Instr} {k : Response → HostProgram} {x : Response} (rests : Rests P)
    (hd : decode i.encode = .ok i)
    (he : ∀ s, P s → ∃ s', exec i s = .next s' ∧ s'.responses = x :: s.responses ∧ P' s') :
    GoesOn P (.call i k) 1 P' (k x) := by
  intro h m turns
  rw [Nat.add_comm]
  induction turns generalizing h with
  | nil => exact fun _ few => absurd few not_hostTicks_succ_nil
  | cons a turns ih =>
    intro hP ht
    obtain ⟨hb, hq, hPt⟩ := rests _ hP
    rw [run_cons]
    obtain rfl | rfl := hostTicks_cons_cases ht
    · obtain ⟨s', hs', hx, hP'⟩ := he _ hP
      have unasked : h.machine.asking [] = h.machine := by rw [State.asking, ← hq]
      refine ⟨s', turns, hP', hostTicks_cons_host ht, ?_⟩
      rw [turn_host (h := h.goOn (.call i k)) rfl rfl hb hd ((congrArg (exec i) unasked).trans hs') hx]
      exact congrArg (Session.run · turns) (goOn_of_same rfl rfl rfl _)
    · rw [turn_tick_goOn]
      exact ih { h with machine := h.machine.tick } hPt (hostTicks_cons_tick ht)

/-- A call that has returned stays so. -/
theorem run_of_done (rests : Rests P) (r : HostResult) (turns : List Turn) :
    ∀ h : Session, P h.machine → hostTicks 0 turns →
      ∃ s, P s ∧ (h.goOn (.done r)).run turns = ({ h with machine := s } : Session).goOn (.done r) := by
  induction turns with
  | nil => exact fun h hP _ => ⟨h.machine, hP, rfl⟩
  | cons a turns ih =>
    intro h hP ht
    obtain ⟨-, hq, hPt⟩ := rests _ hP
    rw [run_cons]
    obtain rfl | rfl := hostTicks_cons_cases ht
    · rw [turn_host_of_done (h := h.goOn (.done r)) rfl hq]
      exact ih h hP ⟨fun a ha => ht.1 a (.tail _ ha), Nat.zero_le _⟩
    · rw [turn_tick_goOn]
      exact ih { h with machine := h.machine.tick } hPt (hostTicks_cons_tick ht)

end GoesOn

/-- What stands in the stream before the HOST's first command is no request of its program. -/
theorem run_call_without_pending {i : Instr} {k : Response → HostProgram} (turns : List Turn) :
    ∀ h : Session, h.machine.busy = false → hostTicks 1 turns →
      (h.goOn (.call i k)).run turns =
        (({ h with machine := h.machine.asking [] } : Session).goOn (.call i k)).run turns := by
  induction turns with
  | nil => exact fun _ _ few => absurd few not_hostTicks_succ_nil
  | cons a turns ih =>
    intro h hb ht
    rw [run_cons, run_cons]
    obtain rfl | rfl := hostTicks_cons_cases ht
    · rw [turn_host_of_call (h := h.goOn (.call i k)) rfl rfl hb,
        turn_host_of_call (h := Session.goOn { h with machine := h.machine.asking [] } (.call i k)) rfl rfl hb]
      rfl
    · rw [turn_tick_goOn, turn_tick_goOn]
      exact ih { h with machine := h.machine.tick } hb (hostTicks_cons_tick ht)

/-- A call returns what its program returns, and the lifecycle states follow (R83). -/
theorem session_run_of_goesOn {P P' : State → Prop} {s : State} {c : HostCall} {i : Instr} {k : Response → HostProgram}
    {r : HostResult} {n : Nat} {turns : List Turn} (hb : s.busy = false) (hc : c.program s.params = .call i k)
    (hP : P (s.asking [])) (goes : GoesOn P (c.program s.params) n P' (.done r)) (rests : Rests P')
    (ht : hostTicks n turns) (hn : 0 < n) (l : PerTimer Lifecycle) :
    ∃ s', P' s' ∧ (s.session l c).run turns = ⟨c, .done r, false, c.lifecycles r l, s'⟩ := by
  rw [hc] at goes
  have start : s.session l c = (⟨c, .call i k, false, l, s⟩ : Session).goOn (.call i k) := by
    rw [State.session, hc]
    rfl
  rw [start, run_call_without_pending turns _ hb (hostTicks_mono hn ht)]
  obtain ⟨s1, rest, h1, hrest, e1⟩ := goes ⟨c, .call i k, false, l, s.asking []⟩ 0 turns hP ht
  obtain ⟨s2, h2, e2⟩ := run_of_done rests r rest ⟨c, .call i k, false, l, s1⟩ h1 hrest
  exact ⟨s2, h2, e1.trans e2⟩

/-- A call of timer 3 ends at its first command, whose word the decoder rejects before any write (R84). -/
theorem session_run_of_configError {s : State} {c : HostCall} {i : Instr} {k : Response → HostProgram} {w : DWord}
    (hb : s.busy = false) (hc : c.program s.params = .call i k) (hi : i.encode = .command w)
    (hd : decode (.command w) = .error (.configError w)) (hk : k (.command 1 0) = .done (.fault 1))
    (l : PerTimer Lifecycle) :
    (s.session l c).run [.host] =
      ⟨c, .done (.fault 1), false, c.lifecycles (.fault 1) l,
        (s.asking []).raise .command (.configError w)⟩ := by
  rw [run_cons, run_nil, turn_host_of_decode_error (h := s.session l c) hc rfl hb hi hd]
  change Session.goOn _ (k (.command 1 0)) = _
  rw [hk]
  rfl

end Sys2Proof.Machine

/-! What the encoder's commands make of a register file, whatever TICKs fall between them (43_host_sequences.md R84, R85). -/

namespace Sys2Proof.Machine

/-! ## What is known of a register file between commands -/

/-- What is known of a register file: its control and load registers are those of `regs`, and of each counter whether it is
at its load value. Of the counters of `regs` nothing is said. -/
structure Known where
  regs : TimerRegs
  loaded0 : Prop
  loaded1 : Prop

/-- A register file is as known. -/
structure Known.Holds (k : Known) (T : TimerRegs) : Prop where
  stored : ∀ r, writable r = true → T.reg r = k.regs.reg r
  cnt0 : k.loaded0 → T.cnt0 = T.load0
  cnt1 : k.loaded1 → T.cnt1 = T.load1

/-- What is known of a register file that nothing has loaded yet. -/
def TimerRegs.known (T : TimerRegs) : Known := ⟨T, False, False⟩

/-- No tick counts in the timer: `CTRL0` is not enabled and, in independent mode, `CTRL1` is not either (R68, R69). -/
def TimerRegs.Stopped (T : TimerRegs) (b : BitPositions) : Prop :=
  b.isEnabled T.ctrl0 = false ∧ (b.isCascade T.ctrl0 = true ∨ b.isEnabled T.ctrl1 = false)

/-- What stays known through any number of ticks: a counter stays at its load value while it is held there or stopped. -/
def Known.lasting (b : BitPositions) (k : Known) : Known where
  regs := k.regs
  loaded0 := k.loaded0 ∧ (b.isLoad k.regs.ctrl0 = true ∨ b.isEnabled k.regs.ctrl0 = false)
  loaded1 := k.loaded1 ∧ (b.isLoad k.regs.ctrl1 = true ∨ k.regs.Stopped b)

/-- What is known after a write of a control or load register and the load that follows it (R66). -/
def Known.write (b : BitPositions) (k : Known) (r : RegName) (v : Word) : Known where
  regs := k.regs.store r v
  loaded0 := b.isLoad (k.regs.store r v).ctrl0 = true ∨ (k.loaded0 ∧ r ≠ .load0)
  loaded1 := b.isLoad (k.regs.store r v).ctrl1 = true ∨ (k.loaded1 ∧ r ≠ .load1)

section Known
variable {b : BitPositions} {k : Known} {T : TimerRegs}

theorem Known.Holds.ctrl0 (h : k.Holds T) : T.ctrl0 = k.regs.ctrl0 := h.stored .ctrl0 rfl
theorem Known.Holds.ctrl1 (h : k.Holds T) : T.ctrl1 = k.regs.ctrl1 := h.stored .ctrl1 rfl

theorem known_holds (T : TimerRegs) : T.known.Holds T := ⟨fun _ _ => rfl, False.elim, False.elim⟩

theorem Known.Holds.lasting (h : k.Holds T) : (k.lasting b).Holds T :=
  ⟨h.stored, fun hk => h.cnt0 hk.1, fun hk => h.cnt1 hk.1⟩

theorem tick_cnt0_of_loaded (h : T.cnt0 = T.load0) (still : b.isLoad T.ctrl0 = true ∨ b.isEnabled T.ctrl0 = false) :
    (T.tick b).cnt0 = T.load0 := by
  rw [tick_cnt0, tickHalf, h]
  obtain held | stopped := still
  · simp [held]
  · simp [stopped]

theorem tick_cnt1_of_loaded (h : T.cnt1 = T.load1) (still : b.isLoad T.ctrl1 = true ∨ T.Stopped b) :
    (T.tick b).cnt1 = T.load1 := by
  cases hl : b.isLoad T.ctrl1 with
  | true => exact tick_cnt1_of_load hl
  | false =>
    obtain ⟨stopped0, mode⟩ := still.resolve_left (by simp [hl])
    cases hc : b.isCascade T.ctrl0 with
    | true =>
      rw [tick_cnt1_of_cascade hc]
      simp [hl, carries, stopped0, h]
    | false =>
      have stopped1 := mode.resolve_left (by simp [hc])
      rw [tick_cnt1_of_independent hc]
      simp [hl, tickHalf, stopped1, h]

/-- What lasts through a tick is known after it. -/
theorem Known.Holds.tick (h : (k.lasting b).Holds T) : (k.lasting b).Holds (T.tick b) where
  stored r hr := (reg_tick_of_writable hr b T).trans (h.stored r hr)
  cnt0 hk := by
    refine tick_cnt0_of_loaded (h.cnt0 hk) ?_
    rw [h.ctrl0]
    exact hk.2
  cnt1 hk := by
    refine tick_cnt1_of_loaded (h.cnt1 hk) ?_
    rw [TimerRegs.Stopped, h.ctrl0, h.ctrl1]
    exact hk.2

theorem Known.Holds.write (h : k.Holds T) {r : RegName} (hr : writable r = true) (v : Word) :
    (k.write b r v).Holds ((T.store r v).applyLoad b) := by
  obtain ⟨cnt0, cnt1⟩ := store_counters_of_writable hr T v
  have stored (r' : RegName) (hr' : writable r' = true) : (T.store r v).reg r' = (k.regs.store r v).reg r' := by
    simp [h.stored r' hr']
  have ctrl0 : (T.store r v).ctrl0 = (k.regs.store r v).ctrl0 := stored .ctrl0 rfl
  have ctrl1 : (T.store r v).ctrl1 = (k.regs.store r v).ctrl1 := stored .ctrl1 rfl
  refine ⟨fun r' hr' => ?stored, fun hk => ?cnt0, fun hk => ?cnt1⟩
  case stored =>
    obtain ⟨h0, h1⟩ := writable_iff.mp hr'
    rw [reg_applyLoad (fun e => absurd e h0) (fun e => absurd e h1)]
    exact stored r' hr'
  case cnt0 =>
    obtain loads | ⟨hk, hne⟩ := hk
    · simp [ctrl0, loads]
    · have kept : (T.store r v).load0 = T.load0 := (reg_store T r .load0 v).trans (if_neg hne.symm)
      simp [kept, cnt0, h.cnt0 hk]
  case cnt1 =>
    obtain loads | ⟨hk, hne⟩ := hk
    · simp [ctrl1, loads]
    · have kept : (T.store r v).load1 = T.load1 := (reg_store T r .load1 v).trans (if_neg hne.symm)
      simp [kept, cnt1, h.cnt1 hk]

end Known

/-! ## The encoder's commands as data -/

/-- A command of the control register encoder (41_control_encoder.md R62 to R65): its kind, its register and its mask. -/
abbrev EncoderWrite := EncoderKind × RegName × Word

/-- The instruction that issues it for a timer. -/
def encoderInstr (t : TimerId) : EncoderWrite → Instr
  | (.set, r, mask) => .setb t.bits r.bits mask
  | (.clr, r, mask) => .clrb t.bits r.bits mask
  | (.zero, r, mask) => .zero t.bits r.bits mask

theorem wf_encoderInstr (t : TimerId) (c : EncoderWrite) : (encoderInstr t c).wf = true := by
  obtain ⟨kind, r, mask⟩ := c
  cases kind <;> cases t <;> cases r <;> rfl

theorem exec_encoderInstr (t : TimerId) (kind : EncoderKind) (r : RegName) (mask : Word) (s : State) :
    exec (encoderInstr t (kind, r, mask)) s =
      .next (s.writeAt .command t r (encodeBits kind (s.readReg t r) mask)) := by
  cases kind with
  | set => exact exec_setb (timerOf_bits t) (regOf_bits r) mask s
  | clr => exact exec_clrb (timerOf_bits t) (regOf_bits r) mask s
  | zero => exact exec_zero (timerOf_bits t) (regOf_bits r) mask s

/-- What is known after such a command, with TICKs before it. -/
def Known.encode (b : BitPositions) (k : Known) : EncoderWrite → Known
  | (kind, r, mask) => (k.lasting b).write b r (encodeBits kind (k.regs.reg r) mask)

/-- What is known after a list of such commands. -/
def Known.after (b : BitPositions) (k : Known) (cs : List EncoderWrite) : Known := cs.foldl (Known.encode b) k

/-- `RESET` (R85). -/
def resetWrites (b : BitPositions) : List EncoderWrite :=
  [(.clr, .ctrl0, b.maskEnt),
   (.set, .ctrl0, b.maskLoad), (.set, .ctrl1, b.maskLoad),
   (.clr, .ctrl0, b.maskLoad), (.clr, .ctrl1, b.maskLoad),
   (.set, .ctrl0, b.maskCasc)]

/-- The first four commands of `INIT` (R84). -/
def zeroWrites : List EncoderWrite :=
  [(.zero, .ctrl0, 0), (.zero, .ctrl1, 0), (.zero, .load0, 0), (.zero, .load1, 0)]

/-- The writes of `INIT` (R84). -/
def initWrites (b : BitPositions) : List EncoderWrite := zeroWrites ++ resetWrites b

theorem resetCommands_eq (b : BitPositions) (t : TimerId) :
    resetCommands b t.bits = (resetWrites b).map (encoderInstr t) := rfl

/-! ## The control bits RESET moves -/

section Bits
variable {b : BitPositions} (hb : legalBits b)
include hb

theorem legalBits_ne : b.load ≠ b.ent ∧ b.load ≠ b.casc ∧ b.ent ≠ b.casc := by
  obtain ⟨distinct, -⟩ := hb
  simp only [List.nodup_cons, List.mem_cons, List.not_mem_nil, or_false, not_or] at distinct
  obtain ⟨-, ⟨load_ent, load_casc⟩, ent_casc, -⟩ := distinct
  exact ⟨load_ent, load_casc, ent_casc⟩

theorem getLsbD_maskLoad (i : Nat) : b.maskLoad.getLsbD i = decide (i = b.load) := by
  obtain ⟨-, below⟩ := hb
  exact getLsbD_mask (below b.load (by simp)) i

theorem getLsbD_maskCasc (i : Nat) : b.maskCasc.getLsbD i = decide (i = b.casc) := by
  obtain ⟨-, below⟩ := hb
  exact getLsbD_mask (below b.casc (by simp)) i

variable (c : Word)

theorem isEnabled_set_maskEnt : b.isEnabled (encodeBits .set c b.maskEnt) = true := by
  simp [BitPositions.isEnabled, getLsbD_encodeBits_set, getLsbD_maskEnt hb]

theorem isEnabled_clr_maskEnt : b.isEnabled (encodeBits .clr c b.maskEnt) = false := by
  simp [BitPositions.isEnabled, getLsbD_encodeBits_clr, getLsbD_maskEnt hb]

theorem isLoad_set_maskLoad : b.isLoad (encodeBits .set c b.maskLoad) = true := by
  simp [BitPositions.isLoad, getLsbD_encodeBits_set, getLsbD_maskLoad hb]

theorem isLoad_clr_maskLoad : b.isLoad (encodeBits .clr c b.maskLoad) = false := by
  simp [BitPositions.isLoad, getLsbD_encodeBits_clr, getLsbD_maskLoad hb]

theorem isEnabled_set_maskLoad : b.isEnabled (encodeBits .set c b.maskLoad) = b.isEnabled c := by
  obtain ⟨load_ent, -, -⟩ := legalBits_ne hb
  simp [BitPositions.isEnabled, getLsbD_encodeBits_set, getLsbD_maskLoad hb, load_ent.symm]

theorem isEnabled_clr_maskLoad : b.isEnabled (encodeBits .clr c b.maskLoad) = b.isEnabled c := by
  obtain ⟨load_ent, -, -⟩ := legalBits_ne hb
  simp [BitPositions.isEnabled, getLsbD_encodeBits_clr, getLsbD_maskLoad hb, load_ent.symm]

theorem isEnabled_set_maskCasc : b.isEnabled (encodeBits .set c b.maskCasc) = b.isEnabled c := by
  obtain ⟨-, -, ent_casc⟩ := legalBits_ne hb
  simp [BitPositions.isEnabled, getLsbD_encodeBits_set, getLsbD_maskCasc hb, ent_casc]

theorem isCascade_clr_maskEnt : b.isCascade (encodeBits .clr c b.maskEnt) = b.isCascade c := by
  obtain ⟨-, -, ent_casc⟩ := legalBits_ne hb
  simp [BitPositions.isCascade, getLsbD_encodeBits_clr, getLsbD_maskEnt hb, ent_casc.symm]

theorem isCascade_set_maskLoad : b.isCascade (encodeBits .set c b.maskLoad) = b.isCascade c := by
  obtain ⟨-, load_casc, -⟩ := legalBits_ne hb
  simp [BitPositions.isCascade, getLsbD_encodeBits_set, getLsbD_maskLoad hb, load_casc.symm]

theorem isCascade_clr_maskLoad : b.isCascade (encodeBits .clr c b.maskLoad) = b.isCascade c := by
  obtain ⟨-, load_casc, -⟩ := legalBits_ne hb
  simp [BitPositions.isCascade, getLsbD_encodeBits_clr, getLsbD_maskLoad hb, load_casc.symm]

theorem isCascade_set_maskCasc : b.isCascade (encodeBits .set c b.maskCasc) = true := by
  simp [BitPositions.isCascade, getLsbD_encodeBits_set, getLsbD_maskCasc hb]

end Bits

/-! ## RESET and INIT on a register file -/

section Reset
variable {b : BitPositions} (k : Known)

theorem after_resetWrites_ctrl0 :
    (k.after b (resetWrites b)).regs.ctrl0 =
      encodeBits .set (encodeBits .clr (encodeBits .set (encodeBits .clr k.regs.ctrl0 b.maskEnt) b.maskLoad) b.maskLoad)
        b.maskCasc := rfl

theorem after_resetWrites_ctrl1 :
    (k.after b (resetWrites b)).regs.ctrl1 = encodeBits .clr (encodeBits .set k.regs.ctrl1 b.maskLoad) b.maskLoad := rfl

/-- Setting a mask's bits and then clearing them clears them. -/
theorem clr_set (c mask : Word) : encodeBits .clr (encodeBits .set c mask) mask = encodeBits .clr c mask := by
  refine BitVec.eq_of_getLsbD_eq fun i _ => ?_
  rw [getLsbD_encodeBits_clr, getLsbD_encodeBits_set, getLsbD_encodeBits_clr]
  split <;> rfl

/-- The control and load registers RESET leaves are R85's. -/
theorem after_resetWrites_reg {r : RegName} (hr : writable r = true) :
    (k.after b (resetWrites b)).regs.reg r = (k.regs.afterReset b).reg r := by
  cases r with
  | cnt0 | cnt1 => cases hr
  | load0 | load1 => rfl
  | ctrl1 => exact (after_resetWrites_ctrl1 k).trans (clr_set _ _)
  | ctrl0 =>
    refine (after_resetWrites_ctrl0 k).trans ?_
    rw [clr_set]
    simp only [encodeBits, TimerRegs.reg, TimerRegs.afterReset, BitVec.and_assoc, BitVec.not_or]

variable (hb : legalBits b)
include hb

/-- RESET leaves the timer not running, the hazard of R114 included. -/
theorem after_resetWrites_disabled : b.isEnabled (k.after b (resetWrites b)).regs.ctrl0 = false := by
  rw [after_resetWrites_ctrl0, isEnabled_set_maskCasc hb, isEnabled_clr_maskLoad hb, isEnabled_set_maskLoad hb,
    isEnabled_clr_maskEnt hb]

/-- From the load on `CNT0` is held or stopped. -/
theorem after_resetWrites_loaded0 : ((k.after b (resetWrites b)).lasting b).loaded0 := by
  simp [Known.after, resetWrites, Known.encode, Known.lasting, Known.write, TimerRegs.store, TimerRegs.reg,
    isLoad_set_maskLoad hb, isEnabled_set_maskCasc hb, isEnabled_clr_maskLoad hb, isEnabled_set_maskLoad hb,
    isEnabled_clr_maskEnt hb]

/-- From the load on `CNT1` is held or stopped, but for the hazard of R114. -/
theorem after_resetWrites_loaded1 (safe : b.isCascade k.regs.ctrl0 = true ∨ b.isEnabled k.regs.ctrl1 = false) :
    ((k.after b (resetWrites b)).lasting b).loaded1 := by
  simpa [Known.after, resetWrites, Known.encode, Known.lasting, Known.write, TimerRegs.store, TimerRegs.reg,
    TimerRegs.Stopped, isLoad_set_maskLoad hb, isLoad_clr_maskLoad hb, isEnabled_set_maskCasc hb, isEnabled_clr_maskLoad hb,
    isEnabled_set_maskLoad hb, isEnabled_clr_maskEnt hb, isCascade_set_maskCasc hb, isCascade_clr_maskLoad hb,
    isCascade_set_maskLoad hb, isCascade_clr_maskEnt hb] using safe

variable {k} {T : TimerRegs}

/-- RESET ends in R85's state but for the hazard of R114. -/
theorem eq_afterReset (h : ((k.after b (resetWrites b)).lasting b).Holds T)
    (safe : b.isCascade k.regs.ctrl0 = true ∨ b.isEnabled k.regs.ctrl1 = false) : T = k.regs.afterReset b := by
  have stored {r : RegName} (hr : writable r = true) : T.reg r = (k.regs.afterReset b).reg r :=
    (h.stored r hr).trans (after_resetWrites_reg k hr)
  refine reg_ext fun r => ?_
  cases r with
  | ctrl0 | load0 | ctrl1 | load1 => exact stored rfl
  | cnt0 => exact (h.cnt0 (after_resetWrites_loaded0 k hb)).trans (stored (r := .load0) rfl)
  | cnt1 => exact (h.cnt1 (after_resetWrites_loaded1 k hb safe)).trans (stored (r := .load1) rfl)

end Reset

/-- The register file R84 gives INIT. -/
def initialized (b : BitPositions) : TimerRegs :=
  { ctrl0 := b.maskCasc, load0 := 0, cnt0 := 0, ctrl1 := 0, load1 := 0, cnt1 := 0 }

section Init
variable {b : BitPositions} (hb : legalBits b)
include hb

/-- INIT ends in R84's state from any: its zeros put the hazard of R114 aside. -/
theorem eq_initialized {k : Known} {T : TimerRegs} (h : ((k.after b (initWrites b)).lasting b).Holds T) :
    T = initialized b := by
  have split : k.after b (initWrites b) = (k.after b zeroWrites).after b (resetWrites b) := List.foldl_append
  rw [split] at h
  have zeros : (k.after b zeroWrites).regs = { TimerRegs.zero with cnt0 := k.regs.cnt0, cnt1 := k.regs.cnt1 } := rfl
  have safe : b.isEnabled (k.after b zeroWrites).regs.ctrl1 = false := by
    rw [zeros]
    exact BitVec.getLsbD_zero
  rw [eq_afterReset hb h (.inr safe), zeros]
  simp [TimerRegs.afterReset, TimerRegs.zero, initialized]

/-- A timer as INIT leaves it does not move. -/
theorem tick_initialized : (initialized b).tick b = initialized b := by
  obtain ⟨-, load_casc, ent_casc⟩ := legalBits_ne hb
  have load : b.isLoad b.maskCasc = false := by simp [BitPositions.isLoad, getLsbD_maskCasc hb, load_casc]
  have ent : b.isEnabled b.maskCasc = false := by simp [BitPositions.isEnabled, getLsbD_maskCasc hb, ent_casc]
  have casc : b.isCascade b.maskCasc = true := by simp [BitPositions.isCascade, getLsbD_maskCasc hb]
  simp [initialized, TimerRegs.tick, TimerRegs.cascade, tickHalf, carries, load, ent, casc]

end Init

end Sys2Proof.Machine

/-! The HOST's calls of one timer and of all three (43_host_sequences.md R83 to R87, R90, R91), as runs of their commands. -/

namespace Sys2Proof.Machine

/-! ## The machine between two commands -/

/-- Between two commands of a call that began in `s₀`: the port is free, no request is left, no fault came, and the register
files are as known. -/
structure AtRest (s₀ : State) (K : PerTimer Known) (s : State) : Prop where
  idle : s.busy = false
  pending : s.pending = []
  params : s.params = s₀.params
  faults : s.faults = s₀.faults
  known : ∀ t, ((K.get t).lasting s₀.bits).Holds (s.timer t)

/-- What is known of the three timers before a call's first command. -/
def State.known (s : State) : PerTimer Known := s.timers.map TimerRegs.known

/-- What is known of the three timers after commands to one of them. -/
def knownAfter (b : BitPositions) (K : PerTimer Known) (t : TimerId) (cs : List EncoderWrite) : PerTimer Known :=
  K.set t ((K.get t).after b cs)

theorem knownAfter_get (b : BitPositions) (K : PerTimer Known) (t t' : TimerId) (cs : List EncoderWrite) :
    (knownAfter b K t cs).get t' = if t' = t then (K.get t).after b cs else K.get t' :=
  PerTimer.get_set K t t' _

theorem knownAfter_nil (b : BitPositions) (K : PerTimer Known) (t : TimerId) : knownAfter b K t [] = K := by
  cases t <;> rfl

theorem knownAfter_cons (b : BitPositions) (K : PerTimer Known) (t : TimerId) (c : EncoderWrite) (cs : List EncoderWrite) :
    knownAfter b (knownAfter b K t [c]) t cs = knownAfter b K t (c :: cs) := by
  cases t <;> rfl

section AtRest
variable {s₀ s : State} {K : PerTimer Known}

theorem AtRest.bits (h : AtRest s₀ K s) : s.bits = s₀.bits := congrArg Params.bits h.params

theorem atRest_rests : Rests (AtRest s₀ K) := by
  intro s h
  refine ⟨h.idle, h.pending, h.idle, h.pending, h.params, h.faults, fun t => ?_⟩
  rw [State.tick_timer, h.bits]
  exact (h.known t).tick

theorem atRest_start (hb : s.busy = false) : AtRest s s.known (s.asking []) where
  idle := hb
  pending := rfl
  params := rfl
  faults := rfl
  known t := by
    rw [State.known, PerTimer.get_map]
    exact (known_holds _).lasting

theorem AtRest.respond (h : AtRest s₀ K s) (a : Response) : AtRest s₀ K (s.respond a) :=
  ⟨h.idle, h.pending, h.params, h.faults, h.known⟩

/-- A write of a control or load register of one timer. -/
theorem AtRest.writeAt (h : AtRest s₀ K s) (t : TimerId) (kind : EncoderKind) {r : RegName} (mask : Word)
    (hr : writable r = true) :
    AtRest s₀ (knownAfter s₀.bits K t [(kind, r, mask)])
      (s.writeAt .command t r (encodeBits kind (s.readReg t r) mask)) := by
  have read : s.readReg t r = (K.get t).regs.reg r := (h.known t).stored r hr
  rw [writeAt_of_writable hr]
  refine ⟨h.idle, h.pending, h.params, h.faults, fun t' => ?_⟩
  rw [State.respond_timer, State.setTimer_timer, knownAfter_get]
  split
  · rw [h.bits, read]
    exact ((h.known t).write hr _).lasting
  · exact h.known t'

end AtRest

/-! ## Programs of commands -/

theorem bind_done (p : HostProgram) : p.bind .done = p := by
  induction p with
  | done r => rfl
  | call i k ih => exact congrArg (HostProgram.call i) (funext ih)

section Programs
variable {s₀ : State} (t : TimerId) (f : HostResult → HostProgram)

/-- A command answered OK goes on with its data. -/
theorem goesOn_checked {P P' : State → Prop} {i : Instr} (k : DWord → HostProgram) {d : DWord} (rests : Rests P)
    (wf : i.wf = true)
    (he : ∀ s, P s → ∃ s', exec i s = .next s' ∧ s'.responses = .command statusOk d :: s.responses ∧ P' s') :
    GoesOn P ((HostProgram.checked i k).bind f) 1 P' ((k d).bind f) :=
  goesOn_call
    (k := fun a => HostProgram.bind
      (if responseStatus a = statusOk then k (responseData a) else .done (.fault (responseStatus a))) f)
    rests (decodeOfEncode i wf) he

/-- Commands of the encoder to control and load registers go through, each answered OK. -/
theorem goesOn_sequence {cs : List EncoderWrite} (hcs : ∀ c ∈ cs, writable c.2.1 = true) (p : HostProgram)
    (K : PerTimer Known) :
    GoesOn (AtRest s₀ K) ((HostProgram.sequence (cs.map (encoderInstr t)) p).bind f) cs.length
      (AtRest s₀ (knownAfter s₀.bits K t cs)) (p.bind f) := by
  induction cs generalizing K with
  | nil =>
    rw [knownAfter_nil]
    exact .refl
  | cons c cs ih =>
    obtain ⟨kind, r, mask⟩ := c
    have hr : writable r = true := hcs _ (.head _)
    have first := goesOn_checked f (fun _ => .sequence (cs.map (encoderInstr t)) p) (atRest_rests (s₀ := s₀) (K := K))
      (wf_encoderInstr t (kind, r, mask)) (d := 0) fun s hs =>
        ⟨_, exec_encoderInstr t kind r mask s, by simp [writeAt_of_writable hr, writeResponse],
          hs.writeAt t kind mask hr⟩
    have rest := ih (fun c hc => hcs c (.tail _ hc)) (knownAfter s₀.bits K t [(kind, r, mask)])
    rw [knownAfter_cons] at rest
    rw [List.length_cons, Nat.add_comm]
    exact first.trans rest

/-- A plain read of a register whose value is known. -/
theorem goesOn_read {K : PerTimer Known} {r : RegName} {v : Word} (k : DWord → HostProgram)
    (known : ∀ T, ((K.get t).lasting s₀.bits).Holds T → T.reg r = v) :
    GoesOn (AtRest s₀ K) ((HostProgram.checked (.rd32 t.bits r.bits 0) k).bind f) 1 (AtRest s₀ K)
      ((k (v.zeroExtend 64)).bind f) := by
  have wf : (Instr.rd32 t.bits r.bits 0).wf = true := by cases t <;> cases r <;> rfl
  refine goesOn_checked f k atRest_rests wf fun s hs =>
    ⟨_, exec_rd32 (timerOf_bits t) 0 s (regOf_bits r), ?_, hs.respond _⟩
  rw [State.respondCommand_responses, State.readReg, known _ (hs.known t)]

theorem goesOn_reset (K : PerTimer Known) :
    GoesOn (AtRest s₀ K) ((resetProgram s₀.bits t.bits).bind f) 6
      (AtRest s₀ (knownAfter s₀.bits K t (resetWrites s₀.bits))) (f .ok) := by
  rw [resetProgram, resetCommands_eq]
  exact goesOn_sequence t f (cs := resetWrites s₀.bits) (by simp [resetWrites, writable]) (.done .ok) K

end Programs

/-! ## INIT's check -/

/-- What INIT returns for the three registers it reads (R84). -/
def initVerdict (b : BitPositions) (tid : BitVec 2) (cnt0 cnt1 ctrl0 : DWord) : HostResult :=
  if cnt0 = 0 ∧ cnt1 = 0 ∧ ctrl0 &&& b.maskCasc.zeroExtend 64 ≠ 0 then .ok else .initVerifyFail tid

/-- INIT's last three commands. -/
def initCheck (b : BitPositions) (tid : BitVec 2) : HostProgram :=
  .checked (.rd32 tid RegName.cnt0.bits 0) fun cnt0 =>
    .checked (.rd32 tid RegName.cnt1.bits 0) fun cnt1 =>
      .checked (.rd32 tid RegName.ctrl0.bits 0) fun ctrl0 => .done (initVerdict b tid cnt0 cnt1 ctrl0)

theorem initProgram_eq (b : BitPositions) (t : TimerId) :
    initProgram b t.bits = .sequence ((initWrites b).map (encoderInstr t)) (initCheck b t.bits) := rfl

/-- A register file as INIT leaves it passes the check. -/
theorem initVerdict_initialized {b : BitPositions} (hb : legalBits b) (tid : BitVec 2) :
    initVerdict b tid (((initialized b).reg .cnt0).zeroExtend 64) (((initialized b).reg .cnt1).zeroExtend 64)
      (((initialized b).reg .ctrl0).zeroExtend 64) = .ok := by
  have set : (b.maskCasc.zeroExtend 64).getLsbD b.casc = true := by
    have ⟨_, below⟩ := hb
    have casc : b.casc < 32 := below b.casc (by simp)
    rw [BitVec.getLsbD_setWidth, getLsbD_maskCasc hb]
    simp
    omega
  have nonzero : b.maskCasc.zeroExtend 64 &&& b.maskCasc.zeroExtend 64 ≠ 0 := by
    rw [BitVec.and_self]
    intro h
    simp [h] at set
  exact if_pos ⟨rfl, rfl, nonzero⟩

section Init
variable {s₀ : State} (t : TimerId) (f : HostResult → HostProgram) (hb : legalBits s₀.bits)
include hb

theorem goesOn_initCheck {K : PerTimer Known}
    (known : ∀ T, ((K.get t).lasting s₀.bits).Holds T → T = initialized s₀.bits) :
    GoesOn (AtRest s₀ K) ((initCheck s₀.bits t.bits).bind f) 3 (AtRest s₀ K) (f .ok) := by
  have reads (r : RegName) (T : TimerRegs) (h : ((K.get t).lasting s₀.bits).Holds T) :
      T.reg r = (initialized s₀.bits).reg r := by rw [known T h]
  refine GoesOn.trans (n := 1) (n' := 2) (goesOn_read t f _ (reads .cnt0)) ?_
  refine GoesOn.trans (n := 1) (n' := 1) (goesOn_read t f _ (reads .cnt1)) ?_
  have last := goesOn_read t f (fun ctrl0 => .done (initVerdict s₀.bits t.bits
    (((initialized s₀.bits).reg .cnt0).zeroExtend 64) (((initialized s₀.bits).reg .cnt1).zeroExtend 64) ctrl0))
    (reads .ctrl0)
  rwa [HostProgram.bind, initVerdict_initialized hb] at last

theorem goesOn_init (K : PerTimer Known) :
    GoesOn (AtRest s₀ K) ((initProgram s₀.bits t.bits).bind f) 13
      (AtRest s₀ (knownAfter s₀.bits K t (initWrites s₀.bits))) (f .ok) := by
  have writes := goesOn_sequence (s₀ := s₀) t f (cs := initWrites s₀.bits)
    (by simp [initWrites, zeroWrites, resetWrites, writable]) (initCheck s₀.bits t.bits) K
  rw [initProgram_eq]
  refine writes.trans (n' := 3) (goesOn_initCheck t f hb fun T h => ?_)
  rw [knownAfter_get, if_pos rfl] at h
  exact eq_initialized hb h

end Init

/-! ## Calls of one timer -/

/-- What a call that ran to its end leaves of a timer to which it sent the commands `cs`. -/
structure Worked (s : State) (t : TimerId) (cs : List EncoderWrite) (s' : State) : Prop where
  idle : s'.busy = false
  params : s'.params = s.params
  faults : s'.faults = s.faults
  known : (((s.timer t).known.after s.bits cs).lasting s.bits).Holds (s'.timer t)

theorem AtRest.worked {s s' : State} {K : PerTimer Known} {t : TimerId} {cs : List EncoderWrite} (h : AtRest s K s')
    (hK : K.get t = (s.timer t).known.after s.bits cs) : Worked s t cs s' :=
  ⟨h.idle, h.params, h.faults, hK ▸ h.known t⟩

/-- A call that works on one timer leaves the lifecycle states of the other two. -/
theorem lifecycles_of_ok {c : HostCall} {t : TimerId} (hc : ∀ t' : TimerId, c.worksOn .ok t' = decide (t.bits = t'.bits))
    (l : PerTimer Lifecycle) : c.lifecycles .ok l = l.set t ((l.get t).after c) := by
  refine lifecycles_of_one (fun t' => (hc t').trans ?_) l
  cases t <;> cases t' <;> rfl

section OneTimer
variable {s : State} (hb : s.busy = false) (l : PerTimer Lifecycle) (t : TimerId) {turns : List Turn}
include hb

/-- A call that runs to its end returns OK. -/
theorem session_run_of_ok {c : HostCall} {i : Instr} {k : Response → HostProgram} {K : PerTimer Known} {n : Nat}
    (hc : c.program s.params = .call i k)
    (goes : GoesOn (AtRest s s.known) (c.program s.params) n (AtRest s K) (.done .ok)) (ht : hostTicks n turns) (hn : 0 < n) :
    ∃ s', AtRest s K s' ∧ (s.session l c).run turns = ⟨c, .done .ok, false, c.lifecycles .ok l, s'⟩ :=
  session_run_of_goesOn hb hc (atRest_start hb) goes atRest_rests ht hn l

theorem session_run_of_one {c : HostCall} {i : Instr} {k : Response → HostProgram} {cs : List EncoderWrite} {n : Nat}
    (hc : c.program s.params = .call i k) (hw : ∀ t' : TimerId, c.worksOn .ok t' = decide (t.bits = t'.bits))
    (goes : ∀ f K, GoesOn (AtRest s K) ((c.program s.params).bind f) n (AtRest s (knownAfter s.bits K t cs)) (f .ok))
    (ht : hostTicks n turns) (hn : 0 < n) :
    ∃ s', Worked s t cs s' ∧ (s.session l c).run turns = ⟨c, .done .ok, false, l.set t ((l.get t).after c), s'⟩ := by
  have program := goes .done s.known
  rw [bind_done] at program
  obtain ⟨s', rest, e⟩ := session_run_of_ok hb l hc program ht hn
  rw [lifecycles_of_ok hw] at e
  refine ⟨s', rest.worked ?_, e⟩
  rw [knownAfter_get, if_pos rfl, State.known, PerTimer.get_map]
  rfl

theorem session_run_init (hbits : legalBits s.bits) (ht : hostTicks 13 turns) :
    ∃ s', Worked s t (initWrites s.bits) s' ∧
      (s.session l (.init t.bits)).run turns = ⟨.init t.bits, .done .ok, false, l.set t .stopped, s'⟩ :=
  session_run_of_one hb l t rfl (fun t' => by simp [HostCall.worksOn]) (fun f => goesOn_init t f hbits) ht (by decide)

theorem session_run_reset (ht : hostTicks 6 turns) :
    ∃ s', Worked s t (resetWrites s.bits) s' ∧ (s.session l (.reset t.bits)).run turns =
      ⟨.reset t.bits, .done .ok, false, l.set t ((l.get t).after (.reset t.bits)), s'⟩ :=
  session_run_of_one hb l t rfl (fun t' => by simp [HostCall.worksOn]) (goesOn_reset t) ht (by decide)

theorem session_run_start (ht : hostTicks 1 turns) :
    ∃ s', Worked s t [(.set, .ctrl0, s.bits.maskEnt)] s' ∧ (s.session l (.start t.bits)).run turns =
      ⟨.start t.bits, .done .ok, false, l.set t ((l.get t).after (.start t.bits)), s'⟩ :=
  session_run_of_one hb l t rfl (fun t' => by simp [HostCall.worksOn])
    (fun f => goesOn_sequence t f (cs := [(.set, .ctrl0, s.bits.maskEnt)]) (by simp [writable]) (.done .ok)) ht
    Nat.one_pos

theorem session_run_stop (ht : hostTicks 1 turns) :
    ∃ s', Worked s t [(.clr, .ctrl0, s.bits.maskEnt)] s' ∧ (s.session l (.stop t.bits)).run turns =
      ⟨.stop t.bits, .done .ok, false, l.set t ((l.get t).after (.stop t.bits)), s'⟩ :=
  session_run_of_one hb l t rfl (fun t' => by simp [HostCall.worksOn])
    (fun f => goesOn_sequence t f (cs := [(.clr, .ctrl0, s.bits.maskEnt)]) (by simp [writable]) (.done .ok)) ht
    Nat.one_pos

end OneTimer

/-- Settles O50: the writes leave R84's register file, which passes the check; for timer 3 the decoder rejects the first
word. -/
theorem initLeavesTimerZeroed : Obligations.InitLeavesTimerZeroed := by
  refine ⟨fun s l t turns hb hbits ht => ?_, fun s l hb => ?_⟩
  · obtain ⟨s', worked, e⟩ := session_run_init hb l t hbits ht
    rw [e]
    exact ⟨rfl, worked.faults, rfl, eq_initialized hbits worked.known⟩
  · rw [session_run_of_configError (i := .zero 3 RegName.ctrl0.bits 0) hb rfl rfl (by decide) rfl]
    exact ⟨rfl, rfl, rfl⟩

/-- Settles O51: the commands leave R85's register file, from any that does not begin in the hazard of R114. -/
theorem resetLeavesLoadValues : Obligations.ResetLeavesLoadValues := by
  intro s l t turns hb hbits ht safe
  obtain ⟨s', worked, e⟩ := session_run_reset hb l t ht
  rw [e]
  exact ⟨rfl, worked.faults, eq_afterReset hbits worked.known safe⟩

/-- Settles O57: each call returns OK, so its lifecycle state follows, and `CTRL0` is as its commands leave it. -/
theorem lifecycleFollowsCalls : Obligations.LifecycleFollowsCalls := by
  intro s l t turns hb hbits ht kept started stopped reset
  have ht1 : hostTicks 1 turns := hostTicks_mono (by decide) ht
  obtain ⟨s1, worked1, e1⟩ := session_run_start hb l t ht1
  obtain ⟨s2, worked2, e2⟩ := session_run_stop hb l t ht1
  obtain ⟨s3, worked3, e3⟩ := session_run_reset hb l t ht
  have ctrl1 : (s1.timer t).ctrl0 = encodeBits .set (s.timer t).ctrl0 s.bits.maskEnt := worked1.known.ctrl0
  have ctrl2 : (s2.timer t).ctrl0 = encodeBits .clr (s.timer t).ctrl0 s.bits.maskEnt := worked2.known.ctrl0
  simp only [started, stopped, reset, e1, e2, e3, TimerRegs.running]
  refine ⟨trivial, rfl, ?started, ctrl1, trivial, rfl, ?stopped, ctrl2, rfl, ?reset⟩
  case started => rw [ctrl1, isEnabled_set_maskEnt hbits]
  case stopped => rw [ctrl2, isEnabled_clr_maskEnt hbits]
  case reset => exact (congrArg _ worked3.known.ctrl0).trans (after_resetWrites_disabled _ hbits)

/-! ## Calls of all three timers -/

/-- What is known after the same commands to each of the three timers in turn. -/
def knownAfterAll (b : BitPositions) (K : PerTimer Known) (cs : List EncoderWrite) : PerTimer Known :=
  knownAfter b (knownAfter b (knownAfter b K .t0 cs) .t1 cs) .t2 cs

theorem knownAfterAll_get (s : State) (t : TimerId) (cs : List EncoderWrite) :
    (knownAfterAll s.bits s.known cs).get t = (s.timer t).known.after s.bits cs := by
  cases t <;> simp [knownAfterAll, knownAfter_get, State.known, State.timer]

section AllTimers
variable {s : State} (K : PerTimer Known)

theorem goesOn_resetAll :
    GoesOn (AtRest s K) (resetAllProgram s.bits) 18 (AtRest s (knownAfterAll s.bits K (resetWrites s.bits))) (.done .ok) :=
  GoesOn.trans (n := 6) (n' := 12) (goesOn_reset .t0 _ K)
    (GoesOn.trans (n := 6) (n' := 6) (goesOn_reset .t1 _ _) (goesOn_reset .t2 (fun _ => .done .ok) _))

/-- INITALL goes on to its next timer, as INIT returned OK. -/
theorem goesOn_initEach_cons (hbits : legalBits s.bits) (t : TimerId) (rest : List (BitVec 2)) :
    GoesOn (AtRest s K) (initEach s.bits (t.bits :: rest)) 13 (AtRest s (knownAfter s.bits K t (initWrites s.bits)))
      (initEach s.bits rest) :=
  goesOn_init t (fun r => if r = .ok then initEach s.bits rest else .done (.batchFailure t.bits r)) hbits K

theorem goesOn_initAll (hbits : legalBits s.bits) :
    GoesOn (AtRest s K) (initAllProgram s.bits) 39 (AtRest s (knownAfterAll s.bits K (initWrites s.bits))) (.done .ok) :=
  GoesOn.trans (n := 13) (n' := 26) (goesOn_initEach_cons K hbits .t0 _)
    (GoesOn.trans (n := 13) (n' := 13) (goesOn_initEach_cons _ hbits .t1 _) (goesOn_initEach_cons _ hbits .t2 []))

end AllTimers

/-- Settles O53: the three sequences run in turn, each moving the registers of its own timer only. -/
theorem resetAllReturnsOk : Obligations.ResetAllReturnsOk := by
  intro s l turns hb hbits ht
  obtain ⟨s', rest, e⟩ := session_run_of_ok (c := .resetAll) hb l rfl (goesOn_resetAll _) ht (by decide)
  rw [e]
  exact ⟨rfl, rest.faults, fun t safe => eq_afterReset hbits (rest.worked (knownAfterAll_get s t _)).known safe⟩

/-- Settles O56: no INIT fails, so all three run, and each timer keeps what its own INIT left. -/
theorem initAllLeavesTimersZeroed : Obligations.InitAllLeavesTimersZeroed := by
  intro s l turns hb hbits ht
  obtain ⟨s', rest, e⟩ := session_run_of_ok (c := .initAll) hb l rfl (goesOn_initAll _ hbits) ht (by decide)
  rw [e]
  exact ⟨rfl, rest.faults, rfl, fun t => eq_initialized hbits (rest.worked (knownAfterAll_get s t _)).known⟩

end Sys2Proof.Machine

/-! ELAPSED (43_host_sequences.md R88): a SNAP64 of a timer whose counter does not move, with turns of the other agents around
its steps. -/

namespace Sys2Proof.Machine

/-! ## The FSM on an unmoved counter -/

/-- What the turns of TICK, SNAP and an idle HOST keep of a state, where no tick moves the timer. -/
structure Unmoved (s₀ : State) (t : TimerId) (s : State) : Prop where
  params : s.params = s₀.params
  faults : s.faults = s₀.faults
  timer : s.timer t = s₀.timer t

/-- What the FSM holds of the timer's counter on its way through a triple, and how many of its steps are left (R73 to R76). -/
def Snap.Reads (n : Snap) (T : TimerRegs) (left : Nat) : Prop :=
  match n.phase with
  | .idle => False
  | .rdHi1 => left = 4
  | .rdLo => left = 3 ∧ n.hi1 = T.cnt1
  | .rdHi2 => left = 2 ∧ n.hi1 = T.cnt1 ∧ n.lo = T.cnt0
  | .cmp => left = 1 ∧ n.hi1 = T.cnt1 ∧ n.lo = T.cnt0 ∧ n.hi2 = T.cnt1

/-- A SNAP64 of the timer is in progress. -/
structure Snapping (s₀ : State) (t : TimerId) (left : Nat) (s : State) : Prop extends Unmoved s₀ t s where
  pending : s.pending = []
  tid : s.snap.tid = t
  reads : s.snap.Reads (s₀.timer t) left

/-- A SNAP64 of the timer has been answered, and the count stands in the latch. -/
structure Latched (s₀ : State) (t : TimerId) (s : State) : Prop extends Unmoved s₀ t s where
  pending : s.pending = []
  idle : s.snap.phase = .idle
  shadow : s.shadow.get t = (s₀.timer t).counter

section Counter
variable {s₀ s : State} {t : TimerId}

theorem Unmoved.tick (still : (s₀.timer t).tick s₀.bits = s₀.timer t) (h : Unmoved s₀ t s) : Unmoved s₀ t s.tick := by
  refine ⟨h.params, h.faults, ?_⟩
  rw [State.tick_timer, State.bits, h.params, h.timer]
  exact still

theorem Snapping.phase_ne_idle {left : Nat} (h : Snapping s₀ t left s) : s.snap.phase ≠ .idle := by
  intro idle
  have reads := h.reads
  rw [Snap.Reads, idle] at reads
  exact reads

theorem Snapping.not_zero_left : ¬ Snapping s₀ t 0 s := by
  intro h
  have reads := h.reads
  unfold Snap.Reads at reads
  split at reads <;> simp at reads

/-- A step of the FSM reads the next word of the counter, or accepts the three it has read. -/
theorem Snapping.snapStep {left : Nat} (h : Snapping s₀ t (left + 1) s) :
    (Snapping s₀ t left s.snapStep ∧ s.snapStep.responses = s.responses) ∨
    (Latched s₀ t s.snapStep ∧ s.snapStep.responses = .command statusOk (s₀.timer t).counter :: s.responses) := by
  obtain ⟨⟨hp, hf, ht⟩, hq, htid, reads⟩ := h
  unfold Snap.Reads at reads
  cases hphase : s.snap.phase <;> simp only [hphase, Nat.add_eq_right, Nat.reduceEqDiff] at reads
  case rdHi1 =>
    subst reads
    rw [snapStep_of_rdHi1 hphase, htid, ht]
    exact .inl ⟨⟨⟨hp, hf, ht⟩, hq, htid, rfl, rfl⟩, rfl⟩
  case rdLo =>
    obtain ⟨rfl, hi1⟩ := reads
    rw [snapStep_of_rdLo hphase, htid, ht]
    exact .inl ⟨⟨⟨hp, hf, ht⟩, hq, htid, rfl, hi1, rfl⟩, rfl⟩
  case rdHi2 =>
    obtain ⟨rfl, hi1, lo⟩ := reads
    rw [snapStep_of_rdHi2 hphase, htid, ht]
    exact .inl ⟨⟨⟨hp, hf, ht⟩, hq, htid, rfl, hi1, lo, rfl⟩, rfl⟩
  case cmp =>
    obtain ⟨-, hi1, lo, hi2⟩ := reads
    have counter : (s.snap.hi1 ++ s.snap.lo : DWord) = (s₀.timer t).counter := by
      rw [hi1, lo]
      rfl
    rw [snapStep_of_cmp hphase, if_pos (hi1.trans hi2.symm)]
    refine .inr ⟨⟨⟨hp, hf, ht⟩, hq, rfl, ?_⟩, ?_⟩
    · rw [State.acceptSnapshot_shadow, PerTimer.get_set, if_pos htid.symm, counter]
    · rw [State.acceptSnapshot_responses, counter]

/-- The HOST's turn that puts a SNAP64 up at a free port: the FSM starts, and the HOST waits (R72). -/
theorem turn_host_snap64 {h : Session} {k : Response → HostProgram} (hp : h.prog = .call (.snap64 t.bits 0 0) k)
    (ho : h.outstanding = false) (hb : h.machine.busy = false) (hm : Unmoved s₀ t h.machine) :
    ∃ s, Snapping s₀ t 4 s ∧ h.turn .host = { h with machine := s, outstanding := true } := by
  have wf : (Instr.snap64 t.bits 0 0).wf = true := by cases t <;> rfl
  have accepts := exec_snap64 (timerOf_bits t) (reg := 0) 0 (h.machine.asking [])
  rw [← serve_of_decode_ok (decodeOfEncode _ wf), ← hostTurn_asking hb] at accepts
  have waits := turn_of_no_response (h := h.asking (.snap64 t.bits 0 0)) (a := .host) (fun _ => issue_of_outstanding rfl)
    accepts rfl
  refine ⟨_, ?_, (turn_host_of_call hp ho hb).trans waits⟩
  exact ⟨⟨hm.params, hm.faults, hm.timer⟩, rfl, rfl, rfl⟩

end Counter

/-! ## The session around a SNAP64 -/

section Around
variable {s₀ : State} {t : TimerId} (still : (s₀.timer t).tick s₀.bits = s₀.timer t)
include still

/-- Before the HOST's turn TICK and SNAP move nothing of the timer, and the port stays free. -/
theorem run_before_snapshot {turns : List Turn} (agents : ∀ a ∈ turns, a = .tick ∨ a = .snap) (h : Session)
    (hm : Unmoved s₀ t h.machine) (hb : h.machine.busy = false) :
    ∃ s, Unmoved s₀ t s ∧ s.busy = false ∧ h.run turns = { h with machine := s } := by
  induction turns generalizing h with
  | nil => exact ⟨h.machine, hm, hb, rfl⟩
  | cons a turns ih =>
    have ih := ih fun a ha => agents a (.tail _ ha)
    rw [run_cons]
    obtain rfl | rfl := agents a (.head _)
    · rw [turn_tick]
      exact ih { h with machine := h.machine.tick } (hm.tick still) hb
    · have idle : h.machine.snap.phase = .idle := by simpa [State.busy] using hb
      rw [turn_of_no_response (by simp) (congrArg _ (snapStep_of_idle idle)) rfl]
      exact ih h hm hb

/-- After the answer no agent but RST moves the timer or its latch. -/
theorem run_after_snapshot {turns : List Turn} (agents : ∀ a ∈ turns, a ≠ .rst) (h : Session) {r : HostResult}
    (hp : h.prog = .done r) (hm : Latched s₀ t h.machine) :
    ∃ s, Latched s₀ t s ∧ h.run turns = { h with machine := s } := by
  induction turns generalizing h with
  | nil => exact ⟨h.machine, hm, rfl⟩
  | cons a turns ih =>
    have ih := ih fun a ha => agents a (.tail _ ha)
    rw [run_cons]
    cases a with
    | rst => exact absurd rfl (agents .rst (.head _))
    | tick =>
      rw [turn_tick]
      exact ih { h with machine := h.machine.tick } hp ⟨hm.toUnmoved.tick still, hm.pending, hm.idle, hm.shadow⟩
    | snap =>
      rw [turn_of_no_response (by simp) (congrArg _ (snapStep_of_idle hm.idle)) rfl]
      exact ih h hp hm
    | host =>
      rw [turn_host_of_done hp hm.pending]
      exact ih h hp hm

/-- A SNAP64 in progress ends after as many turns of SNAP as it has steps left, and answers the counter. -/
theorem run_snapping {i : Instr} {k : Response → HostProgram} {r : HostResult}
    (hk : k (.command statusOk (s₀.timer t).counter) = .done r) {turns : List Turn} (agents : ∀ a ∈ turns, a ≠ .rst)
    (h : Session) {left : Nat} (hp : h.prog = .call i k) (ho : h.outstanding = true) (hm : Snapping s₀ t left h.machine)
    (enough : left ≤ turns.count .snap) :
    ∃ s, Latched s₀ t s ∧ h.run turns = ({ h with machine := s } : Session).goOn (.done r) := by
  induction turns generalizing h left with
  | nil =>
    obtain rfl : left = 0 := Nat.le_zero.mp enough
    exact absurd hm Snapping.not_zero_left
  | cons a turns ih =>
    have agents' : ∀ a ∈ turns, a ≠ .rst := fun a ha => agents a (.tail _ ha)
    rw [run_cons]
    cases a with
    | rst => exact absurd rfl (agents .rst (.head _))
    | tick =>
      rw [turn_tick]
      exact ih agents' { h with machine := h.machine.tick } hp ho
        ⟨hm.toUnmoved.tick still, hm.pending, hm.tid, hm.reads⟩ (by simpa using enough)
    | host =>
      have passes : runTurn .host h.machine = .next h.machine := hostTurn_of_busy (busy_iff.mpr hm.phase_ne_idle)
      rw [turn_of_no_response (fun _ => issue_of_outstanding ho) passes rfl]
      exact ih agents' h hp ho hm (by simpa using enough)
    | snap =>
      cases left with
      | zero => exact absurd hm Snapping.not_zero_left
      | succ left =>
        rw [List.count_cons_self] at enough
        obtain ⟨next, silent⟩ | ⟨latched, answer⟩ := hm.snapStep
        · rw [turn_of_no_response (by simp) rfl silent]
          exact ih agents' { h with machine := h.machine.snapStep } hp ho next (by omega)
        · rw [turn_of_response (by simp) rfl hp ho answer, hk]
          exact run_after_snapshot still agents' (Session.goOn { h with machine := h.machine.snapStep } (.done r)) rfl
            latched

end Around

/-! ## ELAPSED -/

/-- ELAPSED of a timer that no tick moves returns the duration of its counter. -/
theorem session_run_elapsed {s : State} {t : TimerId} {before after : List Turn} (hb : s.busy = false)
    (still : (s.timer t).tick s.bits = s.timer t) (hbefore : ∀ a ∈ before, a = .tick ∨ a = .snap)
    (hafter : ∀ a ∈ after, a ≠ .rst) (enough : 4 ≤ after.count .snap) (l : PerTimer Lifecycle) :
    ∃ s', Latched s t s' ∧ (s.session l (.elapsed t.bits)).run (before ++ .host :: after) =
      ⟨.elapsed t.bits, .done (.seconds (ticksToSeconds (s.timer t).counter s.params.clkHz)), false, l, s'⟩ := by
  obtain ⟨s1, unmoved, hb1, e1⟩ :=
    run_before_snapshot still hbefore (s.session l (.elapsed t.bits)) ⟨rfl, rfl, rfl⟩ hb
  obtain ⟨s2, snapping, e2⟩ :=
    turn_host_snap64 (h := { s.session l (.elapsed t.bits) with machine := s1 }) rfl rfl hb1 unmoved
  obtain ⟨s3, latched, e3⟩ := run_snapping still (r := .seconds (ticksToSeconds (s.timer t).counter s.params.clkHz)) rfl
    hafter { s.session l (.elapsed t.bits) with machine := s2, outstanding := true } rfl rfl snapping enough
  refine ⟨s3, latched, ?_⟩
  rw [run_append, e1, run_cons, e2, e3]
  simp only [Session.goOn, State.session, lifecycles_of_none (c := .elapsed t.bits) fun _ => rfl]

/-- Settles O59: a SNAP64 of an unmoved counter answers that counter; INIT leaves it at 0; for timer 3 the decoder rejects
the word. -/
theorem elapsedReturnsDuration : Obligations.ElapsedReturnsDuration := by
  refine ⟨fun s l t before after hb still ⟨hbefore, hafter, enough⟩ => ?unmoved,
    fun s l t turns before after hb hbits ht ⟨hbefore, hafter, enough⟩ pos le => ?afterInit, fun s l hb => ?timerThree⟩
  case unmoved =>
    obtain ⟨s', latched, e⟩ := session_run_elapsed hb still hbefore hafter enough l
    rw [e]
    exact ⟨rfl, latched.faults, rfl, latched.timer, latched.shadow⟩
  case afterInit =>
    obtain ⟨s1, worked, e1⟩ := session_run_init hb l t hbits ht
    have regs : s1.timer t = initialized s.bits := eq_initialized hbits worked.known
    have bits : s1.bits = s.bits := congrArg Params.bits worked.params
    have still : (s1.timer t).tick s1.bits = s1.timer t := by rw [regs, bits, tick_initialized hbits]
    have zero : (initialized s.bits).counter = 0 := BitVec.zero_append_zero
    have none : ticksToSeconds (s1.timer t).counter s1.params.clkHz = 0 := by
      rw [regs, zero, worked.params, ticksToSeconds_no_ticks pos le]
    obtain ⟨s2, latched, e2⟩ := session_run_elapsed worked.idle still hbefore hafter enough (l.set t .stopped)
    rw [none] at e2
    have next : ((s.session l (.init t.bits)).run turns).next (.elapsed t.bits) =
        s1.session (l.set t .stopped) (.elapsed t.bits) := by
      rw [e1]
      rfl
    rw [next, e2]
    exact ⟨rfl, latched.faults.trans worked.faults, rfl⟩
  case timerThree =>
    rw [session_run_of_configError (i := .snap64 3 0 0) hb rfl rfl (by decide) rfl]
    exact ⟨rfl, rfl, rfl⟩

end Sys2Proof.Machine

/-! The faults (60_exceptions.md R92 to R98): every step answers a next state, with a code of R93, and a fault changes no more
than R95 lets it. -/

namespace Sys2Proof.Machine

/-! ## No step stops (R92, R97, R98) -/

theorem exists_hostTurn_next (s : State) : ∃ s', hostTurn s = .next s' := by
  obtain ⟨h, -⟩ | ⟨_, _, _, -, -, -, h⟩ | ⟨_, _, _, _, -, -, -, h, -⟩ := hostTurn_cases s <;> exact ⟨_, h⟩

/-- Settles O9: the HOST's turn answers by `hostTurn_cases`, and the other agents' turns have no other outcome. -/
theorem everyStepAnswers : Obligations.EveryStepAnswers := by
  intro s
  cases ha : s.nextTurn <;> rw [step_of_turn ha]
  case host => exact exists_hostTurn_next _
  case tick | snap | rst => exact ⟨_, rfl⟩

/-! ## The codes a step answers (R93) -/

theorem faultCode_toNat_bounds (f : BlockFault) : 1 ≤ (faultCode f).toNat ∧ (faultCode f).toNat ≤ 7 := by
  cases f <;> simp [faultCode]

/-- From `s` to `s'` the HOST receives at most one response, and none with a reserved code (R49, R51, R93). -/
def AnswersOnce (s s' : State) : Prop :=
  s'.responses = s.responses ∨ ∃ a, s'.responses = a :: s.responses ∧ (responseStatus a).toNat ≤ 7

theorem answersOnce_raise (s : State) (p : Port) (f : BlockFault) : AnswersOnce s (s.raise p f) := by
  refine .inr ⟨_, rfl, ?_⟩
  cases p <;> exact (faultCode_toNat_bounds f).2

theorem answersOnce_of_statusOk {s s' : State} {a : Response} (h : s'.responses = a :: s.responses)
    (ok : responseStatus a = statusOk) : AnswersOnce s s' :=
  .inr ⟨a, h, by rw [ok]; decide⟩

theorem responseStatus_writeResponse (p : Port) : responseStatus (writeResponse p) = statusOk := by
  cases p <;> rfl

theorem answersOnce_writeAt (s : State) (p : Port) (t : TimerId) (r : RegName) (v : Word) :
    AnswersOnce s (s.writeAt p t r v) := by
  obtain ⟨-, h⟩ | ⟨-, -, h⟩ | ⟨-, -, h⟩ := writeAt_cases s p t r v <;> rw [h]
  · exact answersOnce_of_statusOk rfl (responseStatus_writeResponse p)
  · exact answersOnce_of_statusOk rfl (responseStatus_writeResponse p)
  · exact answersOnce_raise s p _

theorem answersOnce_withTarget {s : State} {k : TimerId → RegName → State} (hk : ∀ t r, AnswersOnce s (k t r))
    (i : Instr) (tid : BitVec 2) (reg : BitVec 3) : AnswersOnce s (s.withTarget i tid reg k) := by
  obtain ⟨t, r, -, -, h⟩ | ⟨-, h⟩ | ⟨-, -, h⟩ := withTarget_cases s i tid reg k <;> rw [h]
  · exact hk t r
  · exact answersOnce_raise s _ _
  · exact answersOnce_raise s _ _

theorem answersOnce_exec {i : Instr} {s s' : State} (h : exec i s = .next s') : AnswersOnce s s' := by
  cases i with
  | rd32 tid reg data =>
    obtain rfl := Host.Outcome.next.inj h
    exact answersOnce_withTarget (fun _ _ => answersOnce_of_statusOk rfl rfl) _ tid reg
  | wr32 tid reg data | setb tid reg data | clrb tid reg data | zero tid reg data =>
    obtain rfl := Host.Outcome.next.inj h
    exact answersOnce_withTarget (fun t r => answersOnce_writeAt s _ t r _) _ tid reg
  | snap64 tid reg data =>
    obtain rfl := Host.Outcome.next.inj h
    obtain ⟨_, -, h⟩ | ⟨-, h⟩ := withTimer_cases s (.snap64 tid reg data) tid _ <;> rw [h]
    · exact .inl rfl
    · exact answersOnce_raise s _ _
  | busRead size addr wdata =>
    obtain ⟨t, r, hd, -⟩ | hd := decodeAddr_cases s.params addr size
    · obtain rfl := Host.Outcome.next.inj ((exec_busRead_of_ok wdata hd).symm.trans h)
      exact answersOnce_of_statusOk rfl rfl
    · obtain rfl := Host.Outcome.next.inj ((exec_busRead_of_error wdata hd).symm.trans h)
      exact answersOnce_raise s _ _
  | busWrite size addr wdata =>
    obtain ⟨t, r, hd, -⟩ | hd := decodeAddr_cases s.params addr size
    · obtain rfl := Host.Outcome.next.inj ((exec_busWrite_of_ok wdata hd).symm.trans h)
      exact answersOnce_writeAt s _ t r _
    · obtain rfl := Host.Outcome.next.inj ((exec_busWrite_of_error wdata hd).symm.trans h)
      exact answersOnce_raise s _ _

theorem answersOnce_hostTurn {s s' : State} (h : hostTurn s = .next s') : AnswersOnce s s' := by
  obtain ⟨h1, -⟩ | ⟨q, rest, f, -, -, -, h1⟩ | ⟨q, rest, i, _, hfree, hq, hd, -⟩ := hostTurn_cases s
  · obtain rfl := Host.Outcome.next.inj (h.symm.trans h1)
    exact .inl rfl
  · obtain rfl := Host.Outcome.next.inj (h.symm.trans h1)
    exact answersOnce_raise { s with pending := rest } q.port f
  · rw [hostTurn_of_pending hfree hq, serve_of_decode_ok hd] at h
    exact answersOnce_exec (s := { s with pending := rest }) h

theorem answersOnce_snapStep (s : State) : AnswersOnce s s.snapStep := by
  obtain ⟨_, h⟩ | ⟨f, h⟩ | ⟨-, -, h⟩ := snapStep_cases s <;> rw [h]
  · exact .inl rfl
  · exact answersOnce_raise s.endSnapshot .command f
  · exact answersOnce_of_statusOk s.acceptSnapshot_responses rfl

/-- RST at a free port reports nothing: no command is there to abort (70_reset_and_hazards.md R107). -/
theorem rst_reports_nothing_of_free {s : State} (h : s.busy = false) :
    s.rst.faults = s.faults ∧ s.rst.responses = s.responses := by
  simp [State.rst, h]

theorem answersOnce_rst (s : State) : AnswersOnce s s.rst := by
  cases hb : s.busy
  · exact .inl (rst_reports_nothing_of_free hb).2
  · exact .inr ⟨_, rst_responses_of_busy hb, by decide⟩

/-- Settles O6: the codes are the definition's, and each agent's turn answers at most one of them. -/
theorem faultCodes : Obligations.FaultCodes := by
  refine ⟨rfl, fun _ _ _ _ _ _ => ⟨rfl, rfl, rfl, rfl, rfl, rfl, rfl⟩, faultCode_toNat_bounds, fun s s' h => ?_⟩
  have answers : AnswersOnce s.takeTurn s' := by
    obtain ⟨-, h⟩ | ⟨-, rfl⟩ | ⟨-, rfl⟩ | ⟨-, rfl⟩ := step_next_cases h
    · exact answersOnce_hostTurn h
    · exact .inl rfl
    · exact answersOnce_snapStep _
    · exact answersOnce_rst _
  rwa [AnswersOnce, State.takeTurn_responses] at answers

/-! ## What a fault leaves unchanged (R95) -/

/-- `f` is raised in the answer to a request, from `s` to `s'`: it is neither RETRY_LIMIT nor ABORTED_BY_RESET, which come
after their command's acceptance, and it changes no register, no latch and no FSM state. -/
structure FaultsAtRequest (f : BlockFault) (s s' : State) : Prop where
  notAborted : ∀ w, f ≠ .abortedByReset w
  notRetryLimit : ∀ t n, f ≠ .retryLimit t n
  timers : s'.timers = s.timers
  shadow : s'.shadow = s.shadow
  snap : s'.snap = s.snap

theorem Effect.faultsAtRequest {i : Instr} {s s' : State} {f : BlockFault} (h : Effect i s s')
    (hf : s'.faults = f :: s.faults) : FaultsAtRequest f s s' := by
  have grown := (List.cons_ne_self f s.faults).symm
  obtain ⟨a, rfl⟩ | ⟨p, g, rfl, notAborted, notRetryLimit⟩ | ⟨t, r, v, a, -, rfl⟩ | ⟨tid, reg, data, t, -, -, rfl⟩ := h
  · exact absurd hf grown
  · obtain rfl : g = f := (List.cons.inj hf).1
    exact ⟨notAborted, notRetryLimit, rfl, rfl, rfl⟩
  · exact absurd hf grown
  · exact absurd hf grown

theorem hostTurn_faultsAtRequest {s s' : State} {f : BlockFault} (h : hostTurn s = .next s')
    (hf : s'.faults = f :: s.faults) : FaultsAtRequest f s s' := by
  obtain ⟨h1, -⟩ | ⟨q, rest, g, -, -, hd, h1⟩ | ⟨q, rest, i, s1, -, -, -, h1, effect⟩ := hostTurn_cases s <;>
    obtain rfl := Host.Outcome.next.inj (h.symm.trans h1)
  · exact absurd hf (List.cons_ne_self f s'.faults).symm
  · obtain rfl : g = f := (List.cons.inj hf).1
    obtain ⟨-, w, rfl | rfl | rfl⟩ := decode_error_cases hd <;> exact ⟨nofun, nofun, rfl, rfl, rfl⟩
  · obtain ⟨notAborted, notRetryLimit, timers, shadow, snap⟩ := effect.faultsAtRequest hf
    exact ⟨notAborted, notRetryLimit, timers, shadow, snap⟩

/-- A SNAP step keeps the fault mark, or it is the CMP that ends the command in RETRY_LIMIT (R77). -/
theorem snapStep_faults_cases (s : State) :
    s.snapStep.faults = s.faults ∨ ∃ t n, s.snapStep = s.endSnapshot.raise .command (.retryLimit t n) := by
  obtain ⟨-, h⟩ | ⟨-, h⟩ | ⟨-, h⟩ | ⟨-, h⟩ | ⟨-, -, h⟩ | ⟨-, -, h⟩ := snapStep_phase s <;> rw [h]
  case inr.inr.inr.inr.inr =>
    obtain ⟨-, hr⟩ | ⟨-, hr⟩ := retrySnapshot_cases s
    · exact .inr ⟨_, _, hr⟩
    · exact .inl (by rw [hr])
  all_goals exact .inl rfl

/-- RST at a busy port adds ABORTED_BY_RESET with the command word the block keeps (R93, 70_reset_and_hazards.md R107). -/
theorem rst_faults_of_busy {s : State} (h : s.busy = true) : s.rst.faults = .abortedByReset s.cmdWord :: s.faults := by
  simp [State.rst, h]

/-- Each fault is one agent's: RST raises ABORTED_BY_RESET, a SNAP step RETRY_LIMIT, and the HOST's turn every other. -/
theorem step_fault_cases {s s' : State} {f : BlockFault} (h : step s = .next s') (hf : s'.faults = f :: s.faults) :
    FaultsAtRequest f s s' ∨
    (∃ t n, f = .retryLimit t n ∧ s'.timers = s.timers ∧ s'.shadow = s.shadow ∧
      s'.snap = { s.snap with phase := .idle }) ∨
    (∃ w, f = .abortedByReset w ∧ s.nextTurn = .rst ∧ s'.snap.phase = .idle) := by
  have grown := (List.cons_ne_self f s.faults).symm
  rw [← s.takeTurn_faults] at hf grown
  obtain ⟨-, h⟩ | ⟨-, rfl⟩ | ⟨-, rfl⟩ | ⟨ha, rfl⟩ := step_next_cases h
  · obtain ⟨notAborted, notRetryLimit, timers, shadow, snap⟩ := hostTurn_faultsAtRequest h hf
    exact .inl ⟨notAborted, notRetryLimit, timers.trans s.takeTurn_timers, shadow.trans s.takeTurn_shadow,
      snap.trans s.takeTurn_snap⟩
  · exact absurd hf grown
  · obtain keep | ⟨t, n, limit⟩ := snapStep_faults_cases s.takeTurn
    · exact absurd (keep.symm.trans hf) grown
    · rw [limit] at hf ⊢
      obtain rfl := (List.cons.inj hf).1
      exact .inr (.inl ⟨t, n, rfl, by simp⟩)
  · refine .inr (.inr ?_)
    cases hb : s.takeTurn.busy
    · exact absurd ((rst_reports_nothing_of_free hb).1.symm.trans hf) grown
    · obtain rfl := (List.cons.inj ((rst_faults_of_busy hb).symm.trans hf)).1
      exact ⟨_, rfl, ha, by rw [State.rst_snap]; rfl⟩

/-- The response that comes with a fault carries its code and no data (R49, R51). -/
theorem step_fault_response {s s' : State} {f : BlockFault} (h : step s = .next s') (hf : s'.faults = f :: s.faults) :
    ∃ p, s'.responses = faultResponse p (faultCode f) :: s.responses := by
  obtain ⟨-, keep | ⟨g, p, hg, response⟩⟩ := faultMarkOnlyGrows s s' h
  · exact absurd (keep.symm.trans hf) (List.cons_ne_self f s.faults).symm
  · obtain rfl := (List.cons.inj (hg.symm.trans hf)).1
    exact ⟨p, response⟩

/-- Settles O28: the response is the fault's, and the effect goes by the agent that raised it. -/
theorem faultHasNoPartialEffect : Obligations.FaultHasNoPartialEffect := by
  intro s s' f h hf
  refine ⟨?response, ?effect⟩
  case response =>
    obtain ⟨p, response⟩ := step_fault_response h hf
    cases p with
    | command => exact .inl response
    | mmio => exact .inr response
  case effect =>
    obtain atRequest | ⟨t, n, rfl, effect⟩ | ⟨w, rfl, effect⟩ := step_fault_cases h hf
    · cases f with
      | abortedByReset w => exact absurd rfl (atRequest.notAborted w)
      | retryLimit t n => exact absurd rfl (atRequest.notRetryLimit t n)
      | configError | illegalCommand | illegalRegister | busDecodeError | cntWriteFault =>
        exact ⟨atRequest.timers, atRequest.shadow, atRequest.snap⟩
    · exact effect
    · exact effect

/-! ## The command word ABORTED_BY_RESET records (R93, log 8) -/

/-- A SNAP step that does not end the command keeps its word. -/
theorem snapStep_cmdWord {s : State} (h : s.snapStep.snap.phase ≠ .idle) : s.snapStep.cmdWord = s.cmdWord := by
  obtain ⟨_, hs⟩ | ⟨_, hs⟩ | ⟨-, -, hs⟩ := snapStep_cases s
  · rw [hs]
  · exact absurd (by rw [hs]; rfl) h
  · exact absurd (by rw [hs]; rfl) h

/-- Settles O47: SNAP64's acceptance sets the word, at a busy port no agent changes it but by ending the command, and RST
records it. -/
theorem abortRecordsCommandWord : Obligations.AbortRecordsCommandWord := by
  refine ⟨fun tid reg data s s' htid h => ?accepted, fun s s' h hp hp' => ?kept, fun s ha hp => ?recorded⟩
  case accepted =>
    obtain ⟨t, ht⟩ := exists_timerOf htid
    obtain rfl := Host.Outcome.next.inj ((exec_snap64 ht data s).symm.trans h)
    rfl
  case kept =>
    rw [← s.takeTurn_cmdWord]
    obtain ⟨ha, -⟩ | ⟨-, rfl⟩ | ⟨-, rfl⟩ | ⟨-, rfl⟩ := step_next_cases h
    · obtain rfl := Host.Outcome.next.inj ((busyPortTakesNoRequest s ha hp).symm.trans h)
      rfl
    · rfl
    · exact snapStep_cmdWord hp'
    · exact absurd (by rw [State.rst_snap]; rfl) hp'
  case recorded =>
    refine ⟨s.takeTurn.rst, step_of_turn ha, ?_⟩
    rw [rst_faults_of_busy (s.takeTurn_busy.trans (busy_iff.mpr hp)), State.takeTurn_cmdWord, State.takeTurn_faults]

end Sys2Proof.Machine

/-! RESET from independent mode (70_reset_and_hazards.md R114): what a HOST's commands make of a register file exactly,
where the TICKs between them are counted. -/

namespace Sys2Proof.Machine

/-! ## Commands and ticks counted exactly -/

/-- The register file after one command of the encoder to it. -/
def TimerRegs.encode (b : BitPositions) (T : TimerRegs) : EncoderWrite → TimerRegs
  | (kind, r, mask) => (T.store r (encodeBits kind (T.reg r) mask)).applyLoad b

/-- Between two commands to the timer in a call that began in `s₀`: the port is free and the register file is `T`. -/
structure RestsAt (s₀ : State) (t : TimerId) (T : TimerRegs) (s : State) : Prop where
  idle : s.busy = false
  params : s.params = s₀.params
  timer : s.timer t = T

section RestsAt
variable {s₀ s : State} {t : TimerId} {T : TimerRegs}

theorem RestsAt.bits (h : RestsAt s₀ t T s) : s.bits = s₀.bits := congrArg Params.bits h.params

theorem RestsAt.tick (h : RestsAt s₀ t T s) : RestsAt s₀ t (T.tick s₀.bits) s.tick := by
  refine ⟨h.idle, h.params, ?_⟩
  rw [State.tick_timer, h.timer, h.bits]

theorem RestsAt.writeAt (h : RestsAt s₀ t T s) (kind : EncoderKind) {r : RegName} (hr : writable r = true)
    (mask : Word) :
    RestsAt s₀ t (T.encode s₀.bits (kind, r, mask))
      (s.writeAt .command t r (encodeBits kind (s.readReg t r) mask)) := by
  have timer := timer_writeAt_self hr s .command t (encodeBits kind (s.readReg t r) mask)
  rw [writeAt_of_writable hr] at timer ⊢
  refine ⟨h.idle, h.params, timer.trans ?_⟩
  rw [State.readReg, h.timer, h.bits]
  rfl

/-- The HOST's turn with a command of the encoder next: the block answers OK at once, and the program goes on. -/
theorem turn_host_encoder {h : Session} (hT : RestsAt s₀ t T h.machine) {c : EncoderWrite} (hc : writable c.2.1 = true)
    (is : List Instr) (p : HostProgram) :
    ∃ s, RestsAt s₀ t (T.encode s₀.bits c) s ∧
      (h.goOn (.sequence (encoderInstr t c :: is) p)).turn .host =
        ({ h with machine := s } : Session).goOn (.sequence is p) := by
  obtain ⟨kind, r, mask⟩ := c
  have free : RestsAt s₀ t T (h.machine.asking []) := ⟨hT.idle, hT.params, hT.timer⟩
  have runs := exec_encoderInstr t kind r mask (h.machine.asking [])
  rw [writeAt_of_writable hc] at runs
  refine ⟨_, writeAt_of_writable hc _ _ _ _ ▸ free.writeAt kind hc mask, ?_⟩
  rw [turn_host (h := h.goOn (.sequence (encoderInstr t (kind, r, mask) :: is) p)) rfl rfl hT.idle
    (decodeOfEncode _ (wf_encoderInstr t _)) runs rfl]
  exact goOn_of_same rfl rfl rfl _

/-- Turns of the HOST alone issue its commands one after the other. -/
theorem session_run_hosts (cs : List EncoderWrite) (hcs : ∀ c ∈ cs, writable c.2.1 = true) (p : HostProgram)
    (h : Session) (hT : RestsAt s₀ t T h.machine) :
    ∃ s, RestsAt s₀ t (cs.foldl (TimerRegs.encode s₀.bits) T) s ∧
      (h.goOn (.sequence (cs.map (encoderInstr t)) p)).run (List.replicate cs.length .host) =
        ({ h with machine := s } : Session).goOn p := by
  induction cs generalizing T h with
  | nil => exact ⟨h.machine, hT, rfl⟩
  | cons c cs ih =>
    obtain ⟨s, hs, e⟩ := turn_host_encoder hT (hcs c (.head _)) (cs.map (encoderInstr t)) p
    obtain ⟨s', hs', e'⟩ := ih (fun c hc => hcs c (.tail _ hc)) { h with machine := s } hs
    refine ⟨s', hs', ?_⟩
    rw [List.length_cons, List.replicate_succ, run_cons, List.map_cons, e, e']

/-- Turns of TICK alone tick the timer, wherever the HOST is in its program. -/
theorem session_run_tickTurns (n : Nat) (p : HostProgram) (h : Session) (hT : RestsAt s₀ t T h.machine) :
    ∃ s, RestsAt s₀ t (T.ticks s₀.bits n) s ∧
      (h.goOn p).run (tickTurns n) = ({ h with machine := s } : Session).goOn p := by
  induction n generalizing T h with
  | zero => exact ⟨h.machine, hT, rfl⟩
  | succ n ih =>
    obtain ⟨s, hs, e⟩ := ih { h with machine := h.machine.tick } hT.tick
    refine ⟨s, hs, ?_⟩
    rw [tickTurns, List.replicate_succ, run_cons, turn_tick_goOn]
    exact e

end RestsAt

/-! ## RESET with ticks before its last command -/

/-- `RESET` but for its last command (R85): stop, and pulse the load bit in both control registers. -/
def pulseWrites (b : BitPositions) : List EncoderWrite :=
  [(.clr, .ctrl0, b.maskEnt),
   (.set, .ctrl0, b.maskLoad), (.set, .ctrl1, b.maskLoad),
   (.clr, .ctrl0, b.maskLoad), (.clr, .ctrl1, b.maskLoad)]

/-- The register file after those commands with no tick between them. -/
def TimerRegs.pulsed (b : BitPositions) (T : TimerRegs) : TimerRegs := (pulseWrites b).foldl (TimerRegs.encode b) T

/-- RESET's last command, and its return. -/
def resetTail (b : BitPositions) (t : TimerId) : HostProgram :=
  .sequence [encoderInstr t (.set, .ctrl0, b.maskCasc)] (.done .ok)

theorem resetProgram_eq (b : BitPositions) (t : TimerId) :
    resetProgram b t.bits = .sequence ((pulseWrites b).map (encoderInstr t)) (resetTail b t) := rfl

/-- A RESET with `n` ticks between `CLRB CTRL1, LOAD` and `SETB CTRL0, CASC`, and none elsewhere. -/
theorem session_run_reset_gap {s : State} (hb : s.busy = false) (l : PerTimer Lifecycle) (t : TimerId) (n : Nat) :
    ∃ s', RestsAt s t
        ((((s.timer t).pulsed s.bits).ticks s.bits n).encode s.bits (.set, .ctrl0, s.bits.maskCasc)) s' ∧
      (s.session l (.reset t.bits)).run ([.host, .host, .host, .host, .host] ++ tickTurns n ++ [.host]) =
        ({ s.session l (.reset t.bits) with machine := s' } : Session).goOn (.done .ok) := by
  have start : s.session l (.reset t.bits) = (s.session l (.reset t.bits)).goOn (resetProgram s.bits t.bits) := rfl
  obtain ⟨s1, rests1, pulse⟩ := session_run_hosts (pulseWrites s.bits) (by simp [pulseWrites, writable])
    (resetTail s.bits t) (s.session l (.reset t.bits)) (s₀ := s) (t := t) ⟨hb, rfl, rfl⟩
  obtain ⟨s2, rests2, gap⟩ := session_run_tickTurns n (resetTail s.bits t)
    { s.session l (.reset t.bits) with machine := s1 } rests1
  obtain ⟨s3, rests3, last⟩ := turn_host_encoder (h := { s.session l (.reset t.bits) with machine := s2 }) rests2
    (c := (.set, .ctrl0, s.bits.maskCasc)) rfl [] (.done .ok)
  refine ⟨s3, rests3, ?_⟩
  rw [← resetProgram_eq, ← start] at pulse
  calc (s.session l (.reset t.bits)).run ([.host, .host, .host, .host, .host] ++ tickTurns n ++ [.host])
      = (((s.session l (.reset t.bits)).run (List.replicate 5 .host)).run (tickTurns n)).run [.host] := by
        rw [run_append, run_append]
        rfl
    _ = (({ s.session l (.reset t.bits) with machine := s2 } : Session).goOn (resetTail s.bits t)).run [.host] :=
        congrArg (Session.run · [.host]) ((congrArg (Session.run · (tickTurns n)) pulse).trans gap)
    _ = ({ s.session l (.reset t.bits) with machine := s3 } : Session).goOn (.done .ok) := last

section Hazard
variable {b : BitPositions} (hb : legalBits b) {T : TimerRegs}

theorem pulsed_ctrl1 : (T.pulsed b).ctrl1 = encodeBits .clr T.ctrl1 b.maskLoad := clr_set _ _

include hb

theorem isDown_clr_maskLoad (c : Word) : b.isDown (encodeBits .clr c b.maskLoad) = b.isDown c := by
  have ⟨distinct, _⟩ := hb
  simp only [List.nodup_cons, List.mem_cons, not_or] at distinct
  obtain ⟨⟨udt_load, -⟩, -⟩ := distinct
  simp [BitPositions.isDown, getLsbD_encodeBits_clr, getLsbD_maskLoad hb, udt_load]

/-- The pulse loads `CNT1`, and clearing `LOAD` leaves it there. -/
theorem pulsed_cnt1 : (T.pulsed b).cnt1 = T.load1 := by
  simp [TimerRegs.pulsed, pulseWrites, TimerRegs.encode, TimerRegs.store, TimerRegs.reg, isLoad_set_maskLoad hb,
    isLoad_clr_maskLoad hb]

/-- RESET's pulse leaves a timer in independent mode with `CTRL1` counting as it found it, so `CNT1` goes on counting. -/
theorem countsEveryTick_pulsed (ind : b.isCascade T.ctrl0 = false) (en : b.isEnabled T.ctrl1 = true) :
    CountsEveryTick b (T.pulsed b) := by
  have ctrl0 : (T.pulsed b).ctrl0 =
      encodeBits .clr (encodeBits .set (encodeBits .clr T.ctrl0 b.maskEnt) b.maskLoad) b.maskLoad := rfl
  refine ⟨?_, ?_, ?_⟩
  · rw [ctrl0, isCascade_clr_maskLoad hb, isCascade_set_maskLoad hb, isCascade_clr_maskEnt hb, ind]
  · rw [pulsed_ctrl1, isEnabled_clr_maskLoad hb, en]
  · rw [pulsed_ctrl1, isLoad_clr_maskLoad hb]

end Hazard

/-- A half that counts on every tick has counted once for each of them. -/
theorem CountsEveryTick.ticks_cnt1 {b : BitPositions} {T : TimerRegs} (h : CountsEveryTick b T) (n : Nat) :
    (T.ticks b n).cnt1 =
      if b.isDown T.ctrl1 then T.cnt1 - BitVec.ofNat 32 n else T.cnt1 + BitVec.ofNat 32 n := by
  have ⟨ind, _, load⟩ := h
  have control : T.cnt1Control b = T.ctrl1 := if_neg (Bool.eq_false_iff.mp ind)
  rw [ticks_cnt1_eq_count_iterate load, h.cnt1Changes_eq, control, count_iterate]

/-- A command to `CTRL0` moves `CNT1` only where `LOAD` holds it. -/
theorem encode_ctrl0_cnt1 {b : BitPositions} {T : TimerRegs} (h : b.isLoad T.ctrl1 = false) (kind : EncoderKind)
    (mask : Word) :
    (T.encode b (kind, .ctrl0, mask)).cnt1 = T.cnt1 := by
  simp [TimerRegs.encode, TimerRegs.store, h]

/-- Settles O52: the pulse loads `CNT1` and leaves `CTRL1` counting, so each tick counts until the last command. -/
theorem resetHazardFromIndependentMode : Obligations.ResetHazardFromIndependentMode := by
  intro s l t n hb hbits ind en
  obtain ⟨s', rests, e⟩ := session_run_reset_gap hb l t n
  have counts := countsEveryTick_pulsed hbits ind en
  obtain ⟨-, -, noLoad⟩ := counts.ticks n
  rw [e]
  refine ⟨rfl, ?_⟩
  rw [goOn_machine, rests.timer, encode_ctrl0_cnt1 noLoad, counts.ticks_cnt1, pulsed_ctrl1, isDown_clr_maskLoad hbits,
    pulsed_cnt1 hbits]

end Sys2Proof.Machine

/-! RST and the power cycle (70_reset_and_hazards.md R106 to R109), and the invariant at reset. -/

namespace Sys2Proof.Machine

/-! ## RST -/

/-- A step of the RST agent is `rst` with the turn taken (00_scope.md R7). -/
theorem step_of_rst_turn {s : State} (h : s.nextTurn = .rst) : step s = .next s.takeTurn.rst := step_of_turn h

theorem reg_zero (r : RegName) : TimerRegs.zero.reg r = 0 := by
  cases r <;> rfl

/-- Settles O46: every field is its reset value, and only a busy port is answered, with the one fault of it. -/
theorem rstResetsEverything : Obligations.RstResetsEverything := by
  intro s ha
  have hstep := step_of_rst_turn ha
  obtain ⟨params, -⟩ := faultMarkOnlyGrows s _ hstep
  refine ⟨s.takeTurn.rst, hstep, fun t r => ?registers, fun t => ?latches, State.rst_snap _, params, fun idle => ?idle,
    fun busy => ?busy⟩
  case registers => rw [State.readReg, State.rst_timer, reg_zero]
  case latches =>
    rw [State.rst_shadow]
    cases t <;> rfl
  case idle =>
    have free : s.takeTurn.busy = false := by simp [State.busy, idle]
    obtain ⟨faults, responses⟩ := rst_reports_nothing_of_free free
    exact ⟨faults.trans s.takeTurn_faults, responses.trans s.takeTurn_responses⟩
  case busy =>
    have hb : s.takeTurn.busy = true := s.takeTurn_busy.trans (busy_iff.mpr busy)
    rw [rst_faults_of_busy hb, rst_responses_of_busy hb, State.takeTurn_faults, State.takeTurn_responses]
    exact ⟨⟨_, rfl⟩, rfl⟩

/-- Settles O48: RST writes `State.reset`'s own values. -/
theorem resetStateIsRstState : Obligations.ResetStateIsRstState := by
  intro s s' ha h
  obtain rfl := Host.Outcome.next.inj ((step_of_rst_turn ha).symm.trans h)
  exact ⟨State.rst_timers _, State.rst_shadow _, State.rst_snap _⟩

/-! ## The power cycle -/

theorem reg_powerUpRegs (n : Nat) (t : TimerId) (r : RegName) : (powerUpRegs n t).reg r = Config.freeReg n t r := by
  cases r <;> rfl

/-- Settles O49: every field of the block reads the draw counter before the cycle moves it on. -/
theorem powerCycleDrawsRegisters : Obligations.PowerCycleDrawsRegisters := by
  intro s
  refine ⟨s.powerCycle, s.event_powerCycle, fun t r => ?registers, s.powerCycle_shadow_get,
    rfl, rfl, rfl, rfl, rfl, rfl, s.powerCycle_draws, s.powerCycle_params, s.powerCycle_faults,
    s.powerCycle_pending, s.powerCycle_responses⟩
  case registers => rw [State.readReg, State.powerCycle_timer, reg_powerUpRegs]

/-! ## The invariant at reset -/

/-- Whatever the free bases are, those at reset meet R29 (log 4). -/
theorem legalBases_bases : legalBases Config.bases := by
  unfold Config.bases
  split
  case isTrue legal => exact legal
  case isFalse => decide

theorem legal_params : Config.params.legal := ⟨legalBases_bases, by decide, by decide⟩

/-- Settles O26: the reset parameters are legal, every timer is zero, and the idle FSM keeps no command. -/
theorem invariantHoldsAtReset : Obligations.InvariantHoldsAtReset :=
  ⟨legal_params, ⟨loadHeld_zero _, loadHeld_zero _, loadHeld_zero _⟩, fun _ => rfl⟩

end Sys2Proof.Machine

/-! The torn read (70_reset_and_hazards.md R113): two reads by one port with a tick between them that carries. -/

namespace Sys2Proof.Machine

/-! ## Two reads with ticks between them -/

/-- An instruction for each register of a timer that the block decodes and answers with that register, and that does
nothing else, while the parameters are `p`. -/
def ReadsTimer (p : Params) (t : TimerId) (read : RegName → Instr) (answer : Word → Response) : Prop :=
  ∀ r, decode (read r).encode = .ok (read r) ∧
    ∀ s : State, s.params = p → exec (read r) s = .next (s.respond (answer (s.readReg t r)))

theorem readsTimer_rd32 (p : Params) (t : TimerId) :
    ReadsTimer p t (fun r => .rd32 t.bits r.bits 0) (fun v => .command 0 (v.zeroExtend 64)) := by
  refine fun r => ⟨decodeOfEncode _ ?_, fun s _ => exec_rd32 (timerOf_bits t) 0 s (regOf_bits r)⟩
  cases t <;> cases r <;> rfl

theorem readsTimer_busRead {p : Params} (legal : p.legal) (t : TimerId) :
    ReadsTimer p t (fun r => .busRead .word (regAddr p t r) 0) (fun v => .mmio false 0 v) := by
  refine fun r => ⟨decodeOfEncode _ rfl, fun s hp => ?_⟩
  subst hp
  exact exec_busRead_regAddr legal t r 0

section TwoReads
variable {t : TimerId} {read : RegName → Instr} {answer : Word → Response}

/-- The HOST's turn with a read next. -/
theorem step_read {s : State} (reads : ReadsTimer s.params t read answer) {r : RegName} {qs : List Request}
    {turns : List Turn} (hb : s.busy = false) (hq : s.pending = (read r).encode :: qs) (ht : s.turns = .host :: turns) :
    step s = .next (({ s with turns := turns, pending := qs } : State).respond (answer (s.readReg t r))) := by
  obtain ⟨taken, host⟩ := State.takeTurn_of_turns s ht
  obtain ⟨decodes, answers⟩ := reads r
  rw [step_of_issues ⟨host, hb, hq⟩, serve_of_decode_ok decodes, State.issued, taken]
  exact answers { s with turns := turns, pending := qs } rfl

/-- Reads of `CNT1` and of `CNT0` answer each the counter's half of its own instant (20_memory.md R34). -/
theorem run_two_reads {s : State} (reads : ReadsTimer s.params t read answer) {n : Nat} (hb : s.busy = false)
    (hq : s.pending = [(read .cnt1).encode, (read .cnt0).encode]) (ht : s.turns = .host :: (tickTurns n ++ [.host])) :
    ∃ s', run (n + 2) s = .next s' ∧ s'.faults = s.faults ∧
      s'.responses = answer ((s.timer t).ticks s.bits n).cnt0 :: answer (s.timer t).cnt1 :: s.responses := by
  have first := step_read reads hb hq ht
  have second := step_read (r := .cnt0) (qs := []) (turns := [])
    (s := { (({ s with turns := tickTurns n ++ [.host], pending := [(read .cnt0).encode] } : State).respond
      (answer (s.readReg t .cnt1))).ticks n with turns := [.host] }) reads hb rfl rfl
  refine ⟨_, (run_succ first (n + 1)).trans ((run_tickTurns rfl 1).trans (run_succ second 0)), rfl, ?_⟩
  rw [← State.ticks_timer]
  rfl

end TwoReads

/-! ## A read that is torn -/

/-- A timer in cascade mode whose `CNT0` carries at the next tick (41_control_encoder.md R68). -/
def aboutToCarry : TimerRegs := { TimerRegs.zero with ctrl0 := 0x880, cnt0 := 0xFFFF_FFFF }

/-- After reset, with that register file in timer 0: the HOST is about to read both halves, with one tick between. -/
def aboutToReadTorn (read : RegName → Instr) : State :=
  { State.reset with
    timers := ⟨aboutToCarry, .zero, .zero⟩
    pending := [(read .cnt1).encode, (read .cnt0).encode]
    turns := .host :: (tickTurns 1 ++ [.host]) }

theorem aboutToReadTorn_inv (read : RegName → Instr) : (aboutToReadTorn read).Inv :=
  have held : aboutToCarry.LoadHeld Config.bits := by decide
  ⟨legal_params, ⟨held, loadHeld_zero _, loadHeld_zero _⟩, fun _ => rfl⟩

theorem aboutToCarry_wraps : (aboutToCarry.ticks Config.bits 1).cnt0 = 0 := by decide

/-- The high half from before the carry with the low half from after it is no value of the counter. -/
theorem aboutToCarry_torn :
    ∀ k ≤ 1, (0 : Word) ++ (0 : Word) ≠ (aboutToCarry.ticks Config.bits k).counter := by decide

theorem aboutToReadTorn_answers {read : RegName → Instr} {answer : Word → Response}
    (reads : ReadsTimer Config.params .t0 read answer) :
    ∃ s', run 3 (aboutToReadTorn read) = .next s' ∧ s'.faults = [] ∧ s'.responses = [answer 0, answer 0] := by
  obtain ⟨s', hrun, faults, responses⟩ := run_two_reads (s := aboutToReadTorn read) (n := 1) reads rfl rfl rfl
  have wraps : (((aboutToReadTorn read).timer .t0).ticks (aboutToReadTorn read).bits 1).cnt0 = 0 := aboutToCarry_wraps
  rw [wraps] at responses
  exact ⟨s', hrun, faults, responses⟩

/-- Settles O45: the carry falls between the two reads, by either port. -/
theorem tornReadExists : Obligations.TornReadExists := by
  obtain ⟨s1, run1, faults1, responses1⟩ := aboutToReadTorn_answers (readsTimer_rd32 Config.params .t0)
  obtain ⟨s2, run2, faults2, responses2⟩ := aboutToReadTorn_answers (readsTimer_busRead legal_params .t0)
  exact ⟨⟨_, s1, 1, 0, 0, aboutToReadTorn_inv _, rfl, rfl, rfl, run1, faults1, responses1, aboutToCarry_torn⟩,
    ⟨_, s2, 1, 0, 0, aboutToReadTorn_inv _, rfl, rfl, rfl, run2, faults2, responses2, aboutToCarry_torn⟩⟩

end Sys2Proof.Machine
